-- ==== Sys2Proof/Word.lean ====
section
/-! DEFINITION. The units of the wire (R183): the byte, the two-byte and the four-byte field; and the object
numbers of the site (00, Numbering): 8 rooms, 16 doors, 12 coils. -/

namespace Sys2Proof

/-- One character of a link, and one byte of a frame (R159). -/
abbrev Byte := BitVec 8

/-- A two-byte field of a body (R183). -/
abbrev Word16 := BitVec 16

/-- A four-byte field of a body (R183). -/
abbrev Word32 := BitVec 32

/-- A room number, 0..7. -/
abbrev RoomId := Fin 8

/-- A door number, 0..15. -/
abbrev DoorId := Fin 16

/-- A coil number, 0..11. -/
abbrev CoilId := Fin 12

/-- A pallet tag (R99); 0 names no pallet. -/
abbrev Tag := Nat

end Sys2Proof
end

