-- ==== Sys2Proof/Syntax.lean ====
section
/-! DEFINITION. The commands of the part: one constructor of `Instr` for each row of spec/opcode_table.json.
A request carries the link it came on, its frame tag (R159) and the fields of its body as they stand on the wire
(R182 to R184), so that a field out of its range is part of the command and is answered, not excluded. -/

namespace Sys2Proof

/-- The three links, in the order of their encoding (R183). -/
inductive Link where
  | plant
  | dock
  | floor
  deriving DecidableEq, Repr

/-- A location field as carried: its kind byte and its number byte (R183). -/
structure RawLoc where
  kind : Byte
  num  : Byte
  deriving DecidableEq, Repr

/-- One item of a setting request as carried: the setting number and the four-byte value (R184). -/
structure Item where
  num   : Byte
  value : Word32
  deriving DecidableEq, Repr

/-- The commands. First the reset pin and the time base, then the steps that come about inside other steps (95),
then the requests in the order of their message kinds (R182), then the events of a link's line. -/
inductive Instr where
  -- the reset pin and the time base
  | pinReset
  | secondEvent
  | exposureTick
  | minuteEvent
  -- steps inside other steps, each with the object it is about
  | roomSensorStale (room : RoomId)
  | roomOverTemp (room : RoomId)
  | roomExposure (room : RoomId)
  | sealQualification (door : DoorId)
  | doorOpenLong (door : DoorId)
  | coolingInterval (coil : CoilId)
  | defrostOverrun (coil : CoilId)
  | dripEnd (coil : CoilId)
  | recoveryFail (coil : CoilId)
  | defrostDeferred (coil : CoilId)
  | defrostBlocked (coil : CoilId)
  | pickTimeout (tag : Tag)
  | transitLong (tag : Tag)
  | moveStalled (tag : Tag)
  | palletBreach (tag : Tag)
  | doorGrant (room : RoomId)
  | slotGrant
  | defrostEntry (coil : CoilId)
  | moveRelease
  | closeOrder (door : DoorId)
  -- requests: 0x01..0x06
  | temperatureSample (link : Link) (ft : Byte) (room kind : Byte) (value : Word16)
  | coilTerminated (link : Link) (ft : Byte) (coil : Byte)
  | demandDefrost (link : Link) (ft : Byte) (coil : Byte)
  | stageCoilTiming (link : Link) (ft : Byte) (coil presence : Byte) (interval : Word16) (maximum : Byte)
  | coilService (link : Link) (ft : Byte) (coil value : Byte)
  | resetRoomExposure (link : Link) (ft : Byte) (room : Byte)
  -- requests: 0x07..0x0E
  | trailerArrived (link : Link) (ft : Byte) (door : Byte) (reading : Option Word16)
  | trailerLeft (link : Link) (ft : Byte) (door : Byte)
  | restraint (link : Link) (ft : Byte) (door value : Byte)
  | sealCondition (link : Link) (ft : Byte) (door value : Byte)
  | doorPosition (link : Link) (ft : Byte) (door value : Byte)
  | doorService (link : Link) (ft : Byte) (door value : Byte)
  | openRequest (link : Link) (ft : Byte) (door : Byte)
  | openCancel (link : Link) (ft : Byte) (door : Byte)
  -- requests: 0x0F..0x14
  | registerPallet (link : Link) (ft : Byte) (tag : Word32) (cls : Byte) (loc : RawLoc) (budget : Option Word32)
  | removePallet (link : Link) (ft : Byte) (tag : Word32)
  | enqueueMove (link : Link) (ft : Byte) (tag : Word32) (dest : RawLoc)
  | cancelMove (link : Link) (ft : Byte) (tag : Word32)
  | picked (link : Link) (ft : Byte) (tag : Word32)
  | dropped (link : Link) (ft : Byte) (tag : Word32) (loc : RawLoc)
  -- requests: 0x15..0x1E
  | setRoom (link : Link) (ft : Byte) (room : Byte) (items : List Item)
  | setDoor (link : Link) (ft : Byte) (door : Byte) (items : List Item)
  | setProfile (link : Link) (ft : Byte) (door : Byte) (span : Word16) (segments : List Byte)
  | setCoil (link : Link) (ft : Byte) (coil : Byte) (items : List Item)
  | setPlant (link : Link) (ft : Byte) (items : List Item)
  | setFloor (link : Link) (ft : Byte) (items : List Item)
  | setTrucks (link : Link) (ft : Byte) (limit : Byte)
  | setClass (link : Link) (ft : Byte) (cls : Byte) (items : List Item)
  | setRoute (link : Link) (ft : Byte) (kind : Byte) (items : List Item)
  | lock (link : Link) (ft : Byte) (group : Byte)
  -- requests: 0x1F..0x27
  | readRoom (link : Link) (ft : Byte) (room : Byte)
  | readDoor (link : Link) (ft : Byte) (door : Byte)
  | readCoil (link : Link) (ft : Byte) (coil : Byte)
  | readPallet (link : Link) (ft : Byte) (tag : Word32)
  | readMoves (link : Link) (ft : Byte) (index : Byte)
  | readAlarms (link : Link) (ft : Byte) (index : Byte)
  | readStatus (link : Link) (ft : Byte)
  | readChanges (link : Link) (ft : Byte)
  | readSettings (link : Link) (ft : Byte) (group object : Byte)
  -- requests: 0x28..0x2B
  | acknowledge (link : Link) (ft : Byte) (code : Byte)
  | setClock (link : Link) (ft : Byte) (day : Word16) (second : Word32)
  | restart (link : Link) (ft : Byte)
  | commission (link : Link) (ft : Byte)
  -- events of a link's line
  | frameDiscard (link : Link)
  | frameGap (link : Link)
  | characterError (link : Link)
  | frameSent (link : Link)
  | characterReceived (link : Link) (char : Byte)
  deriving DecidableEq, Repr

end Sys2Proof
end

