-- ==== Sys2Proof/WellFormed.lean ====
section
/-! DEFINITION. The commands that a frame can carry: the body lengths R182 and R184 allow (R162, third check).
Only the requests with a varying number of fields can fail it; the value of a field never makes a command
ill-formed, since the part answers it. -/

namespace Sys2Proof

/-- The number of settings of each group that SET requests carry as items (R184). -/
def roomSettingCount : Nat := 12
def doorSettingCount : Nat := 5
def coilSettingCount : Nat := 6
def plantSettingCount : Nat := 6
def floorSettingCount : Nat := 8
def classSettingCount : Nat := 2
def routeSettingCount : Nat := 5

/-- One item or more, and at most one for each setting of the group (R184). -/
def itemsOk (count : Nat) (items : List Item) : Bool :=
  1 ≤ items.length && items.length ≤ count

/-- A profile carries all eight segments (R27, R182). -/
def segmentsOk (segments : List Byte) : Bool :=
  segments.length == 8

/-- The command's body has a length its layout allows. -/
def Instr.wellFormed : Instr → Bool
  | .setRoom _ _ _ items => itemsOk roomSettingCount items
  | .setDoor _ _ _ items => itemsOk doorSettingCount items
  | .setProfile _ _ _ _ segments => segmentsOk segments
  | .setCoil _ _ _ items => itemsOk coilSettingCount items
  | .setPlant _ _ items => itemsOk plantSettingCount items
  | .setFloor _ _ items => itemsOk floorSettingCount items
  | .setClass _ _ _ items => itemsOk classSettingCount items
  | .setRoute _ _ _ items => itemsOk routeSettingCount items
  | .pinReset | .secondEvent | .exposureTick | .minuteEvent
  | .roomSensorStale _ | .roomOverTemp _ | .roomExposure _ | .sealQualification _ | .doorOpenLong _
  | .coolingInterval _ | .defrostOverrun _ | .dripEnd _ | .recoveryFail _ | .defrostDeferred _
  | .defrostBlocked _ | .pickTimeout _ | .transitLong _ | .moveStalled _ | .palletBreach _
  | .doorGrant _ | .slotGrant | .defrostEntry _ | .moveRelease | .closeOrder _
  | .temperatureSample .. | .coilTerminated .. | .demandDefrost .. | .stageCoilTiming ..
  | .coilService .. | .resetRoomExposure .. | .trailerArrived .. | .trailerLeft .. | .restraint ..
  | .sealCondition .. | .doorPosition .. | .doorService .. | .openRequest .. | .openCancel ..
  | .registerPallet .. | .removePallet .. | .enqueueMove .. | .cancelMove .. | .picked .. | .dropped ..
  | .setTrucks .. | .lock .. | .readRoom .. | .readDoor .. | .readCoil .. | .readPallet ..
  | .readMoves .. | .readAlarms .. | .readStatus .. | .readChanges .. | .readSettings ..
  | .acknowledge .. | .setClock .. | .restart .. | .commission ..
  | .frameDiscard _ | .frameGap _ | .characterError _ | .frameSent _ | .characterReceived .. => true

end Sys2Proof
end

