-- ==== Sys2Proof/Decode.lean ====
section
/-! DEFINITION. The wire of a request (R159, R161, R182 to R184): byte order, CRC, the frame, and the bodies of the
requests both ways, from bytes to the command and from the command to bytes. The opcode table gives no row any
bits, so `decodeTableWord` answers none. -/

namespace Sys2Proof

/-! ### Byte order (R183) -/

/-- A two-byte field, big-endian. -/
def be16 (hi lo : Byte) : Word16 := hi ++ lo

/-- A four-byte field, big-endian. -/
def be32 (a b c d : Byte) : Word32 := a ++ b ++ c ++ d

/-- The two bytes of a field, high byte first. -/
def bytes16 (w : Word16) : List Byte := [w.extractLsb' 8 8, w.extractLsb' 0 8]

/-- The four bytes of a field, high byte first. -/
def bytes32 (w : Word32) : List Byte :=
  [w.extractLsb' 24 8, w.extractLsb' 16 8, w.extractLsb' 8 8, w.extractLsb' 0 8]

/-! ### The CRC (R161) -/

/-- One bit of the CRC: a shift to the left, with the polynomial 0x1021 taken in when a 1 falls out. -/
def crcBit (c : Word16) : Word16 :=
  if c.getLsbD 15 then (c <<< 1) ^^^ 0x1021#16 else c <<< 1

/-- One byte of the CRC, not reflected: the byte meets the high byte of the register, then eight bits are taken. -/
def crcByte (c : Word16) (b : Byte) : Word16 :=
  crcBit (crcBit (crcBit (crcBit (crcBit (crcBit (crcBit (crcBit (c ^^^ be16 b 0#8))))))))

/-- The CRC over some bytes: initial value 0xFFFF, no final exclusive-or (R161). -/
def crc16 (bytes : List Byte) : Word16 := bytes.foldl crcByte 0xFFFF#16

/-! ### The frame (R159, R182) -/

/-- The start byte (R159). -/
def startByte : Byte := 0xC3#8

/-- The frame kinds (R182, The frame). -/
def kindRequest : Byte := 0x01#8
def kindAnswer : Byte := 0x02#8
def kindNotice : Byte := 0x03#8

/-- The bytes a CRC is computed over: the length byte through the last body byte (R161). -/
def frameCore (kind msg ft : Byte) (body : List Byte) : List Byte :=
  BitVec.ofNat 8 (body.length + 3) :: kind :: msg :: ft :: body

/-- A whole frame on the line: start byte, length, header, body and CRC, high byte first (R159, R161). -/
def frameBytes (kind msg ft : Byte) (body : List Byte) : List Byte :=
  startByte :: (frameCore kind msg ft body ++ bytes16 (crc16 (frameCore kind msg ft body)))

/-! ### Request bodies: from bytes to the command (R182, Request bodies; R184) -/

/-- A body of no bytes. -/
def body0 (i : Instr) : List Byte → Option Instr
  | [] => some i
  | _ => none

/-- A body of one byte. -/
def body1 (f : Byte → Instr) : List Byte → Option Instr
  | [a] => some (f a)
  | _ => none

/-- A body of two bytes. -/
def body2 (f : Byte → Byte → Instr) : List Byte → Option Instr
  | [a, b] => some (f a b)
  | _ => none

/-- A body that is a pallet tag. -/
def bodyTag (f : Word32 → Instr) : List Byte → Option Instr
  | [a, b, c, d] => some (f (be32 a b c d))
  | _ => none

/-- A body that is a pallet tag and a location. -/
def bodyTagLoc (f : Word32 → RawLoc → Instr) : List Byte → Option Instr
  | [a, b, c, d, k, n] => some (f (be32 a b c d) ⟨k, n⟩)
  | _ => none

/-- The items of a setting request, five bytes each (R184). -/
def parseItems : List Byte → Option (List Item)
  | [] => some []
  | n :: a :: b :: c :: d :: rest => (parseItems rest).map (⟨n, be32 a b c d⟩ :: ·)
  | _ => none

/-- A setting request with an object byte. -/
def bodyObjectItems (f : Byte → List Item → Instr) : List Byte → Option Instr
  | o :: rest => (parseItems rest).map (f o)
  | [] => none

/-- A setting request without an object byte. -/
def bodyItems (f : List Item → Instr) (body : List Byte) : Option Instr :=
  (parseItems body).map f

/-- TEMPERATURE SAMPLE: room, reading kind, value. -/
def bodySample (l : Link) (ft : Byte) : List Byte → Option Instr
  | [r, k, hi, lo] => some (.temperatureSample l ft r k (be16 hi lo))
  | _ => none

/-- STAGE COIL TIMING: coil, presence, cooling interval, defrost max. -/
def bodyStage (l : Link) (ft : Byte) : List Byte → Option Instr
  | [c, p, hi, lo, m] => some (.stageCoilTiming l ft c p (be16 hi lo) m)
  | _ => none

/-- TRAILER ARRIVED: door, then the trailer reading when one is carried. -/
def bodyTrailer (l : Link) (ft : Byte) : List Byte → Option Instr
  | [d] => some (.trailerArrived l ft d none)
  | [d, hi, lo] => some (.trailerArrived l ft d (some (be16 hi lo)))
  | _ => none

/-- REGISTER PALLET: tag, class, location, then the budget when one is carried. -/
def bodyRegister (l : Link) (ft : Byte) : List Byte → Option Instr
  | [a, b, c, d, cls, k, n] => some (.registerPallet l ft (be32 a b c d) cls ⟨k, n⟩ none)
  | [a, b, c, d, cls, k, n, w, x, y, z] =>
      some (.registerPallet l ft (be32 a b c d) cls ⟨k, n⟩ (some (be32 w x y z)))
  | _ => none

/-- SET PROFILE: door, span, segments. -/
def bodyProfile (l : Link) (ft : Byte) : List Byte → Option Instr
  | d :: hi :: lo :: segments => some (.setProfile l ft d (be16 hi lo) segments)
  | _ => none

/-- SET CLOCK: day, second of day. -/
def bodyClock (l : Link) (ft : Byte) : List Byte → Option Instr
  | [dh, dl, a, b, c, d] => some (.setClock l ft (be16 dh dl) (be32 a b c d))
  | _ => none

/-- The command a message kind and a body spell (R182, Message kinds), before the item counts are checked. -/
def parseBody (l : Link) (msg ft : Byte) (body : List Byte) : Option Instr :=
  match msg.toNat with
  | 0x01 => bodySample l ft body
  | 0x02 => body1 (.coilTerminated l ft) body
  | 0x03 => body1 (.demandDefrost l ft) body
  | 0x04 => bodyStage l ft body
  | 0x05 => body2 (.coilService l ft) body
  | 0x06 => body1 (.resetRoomExposure l ft) body
  | 0x07 => bodyTrailer l ft body
  | 0x08 => body1 (.trailerLeft l ft) body
  | 0x09 => body2 (.restraint l ft) body
  | 0x0A => body2 (.sealCondition l ft) body
  | 0x0B => body2 (.doorPosition l ft) body
  | 0x0C => body2 (.doorService l ft) body
  | 0x0D => body1 (.openRequest l ft) body
  | 0x0E => body1 (.openCancel l ft) body
  | 0x0F => bodyRegister l ft body
  | 0x10 => bodyTag (.removePallet l ft) body
  | 0x11 => bodyTagLoc (.enqueueMove l ft) body
  | 0x12 => bodyTag (.cancelMove l ft) body
  | 0x13 => bodyTag (.picked l ft) body
  | 0x14 => bodyTagLoc (.dropped l ft) body
  | 0x15 => bodyObjectItems (.setRoom l ft) body
  | 0x16 => bodyObjectItems (.setDoor l ft) body
  | 0x17 => bodyProfile l ft body
  | 0x18 => bodyObjectItems (.setCoil l ft) body
  | 0x19 => bodyItems (.setPlant l ft) body
  | 0x1A => bodyItems (.setFloor l ft) body
  | 0x1B => body1 (.setTrucks l ft) body
  | 0x1C => bodyObjectItems (.setClass l ft) body
  | 0x1D => bodyObjectItems (.setRoute l ft) body
  | 0x1E => body1 (.lock l ft) body
  | 0x1F => body1 (.readRoom l ft) body
  | 0x20 => body1 (.readDoor l ft) body
  | 0x21 => body1 (.readCoil l ft) body
  | 0x22 => bodyTag (.readPallet l ft) body
  | 0x23 => body1 (.readMoves l ft) body
  | 0x24 => body1 (.readAlarms l ft) body
  | 0x25 => body0 (.readStatus l ft) body
  | 0x26 => body0 (.readChanges l ft) body
  | 0x27 => body2 (.readSettings l ft) body
  | 0x28 => body1 (.acknowledge l ft) body
  | 0x29 => bodyClock l ft body
  | 0x2A => body0 (.restart l ft) body
  | 0x2B => body0 (.commission l ft) body
  | _ => none

/-- The request of a frame that came on link l: none where the message kind names no request or the body has a
length its layout does not allow (R162, checks 2 and 3). -/
def parseRequest (l : Link) (msg ft : Byte) (body : List Byte) : Option Instr :=
  match parseBody l msg ft body with
  | some i => if i.wellFormed then some i else none
  | none => none

/-- The request in a completed frame, given as its bytes after the start byte: its CRC is good (R161), its kind is
REQUEST, and its message kind and body length name one (R162). -/
def frameRequest (l : Link) (bytes : List Byte) : Option Instr :=
  let core := bytes.take (bytes.length - 2)
  if bytes16 (crc16 core) = bytes.drop (bytes.length - 2) then
    match core with
    | _ :: kind :: msg :: ft :: body => if kind = kindRequest then parseRequest l msg ft body else none
    | _ => none
  else none

/-! ### Request bodies: from the command to bytes -/

/-- The bytes of a location field. -/
def locBytes (x : RawLoc) : List Byte := [x.kind, x.num]

/-- The bytes of items (R184). -/
def itemBytes : List Item → List Byte
  | [] => []
  | i :: rest => i.num :: (bytes32 i.value ++ itemBytes rest)

/-- A request as its frame carries it: the link it comes on, message kind, frame tag and body. None for the
commands that are not requests. -/
def Instr.onWire : Instr → Option (Link × Byte × Byte × List Byte)
  | .temperatureSample l ft r k v => some (l, 0x01#8, ft, r :: k :: bytes16 v)
  | .coilTerminated l ft c => some (l, 0x02#8, ft, [c])
  | .demandDefrost l ft c => some (l, 0x03#8, ft, [c])
  | .stageCoilTiming l ft c p i m => some (l, 0x04#8, ft, c :: p :: (bytes16 i ++ [m]))
  | .coilService l ft c v => some (l, 0x05#8, ft, [c, v])
  | .resetRoomExposure l ft r => some (l, 0x06#8, ft, [r])
  | .trailerArrived l ft d none => some (l, 0x07#8, ft, [d])
  | .trailerArrived l ft d (some v) => some (l, 0x07#8, ft, d :: bytes16 v)
  | .trailerLeft l ft d => some (l, 0x08#8, ft, [d])
  | .restraint l ft d v => some (l, 0x09#8, ft, [d, v])
  | .sealCondition l ft d v => some (l, 0x0A#8, ft, [d, v])
  | .doorPosition l ft d v => some (l, 0x0B#8, ft, [d, v])
  | .doorService l ft d v => some (l, 0x0C#8, ft, [d, v])
  | .openRequest l ft d => some (l, 0x0D#8, ft, [d])
  | .openCancel l ft d => some (l, 0x0E#8, ft, [d])
  | .registerPallet l ft t c x none => some (l, 0x0F#8, ft, bytes32 t ++ (c :: locBytes x))
  | .registerPallet l ft t c x (some b) => some (l, 0x0F#8, ft, bytes32 t ++ (c :: (locBytes x ++ bytes32 b)))
  | .removePallet l ft t => some (l, 0x10#8, ft, bytes32 t)
  | .enqueueMove l ft t x => some (l, 0x11#8, ft, bytes32 t ++ locBytes x)
  | .cancelMove l ft t => some (l, 0x12#8, ft, bytes32 t)
  | .picked l ft t => some (l, 0x13#8, ft, bytes32 t)
  | .dropped l ft t x => some (l, 0x14#8, ft, bytes32 t ++ locBytes x)
  | .setRoom l ft r items => some (l, 0x15#8, ft, r :: itemBytes items)
  | .setDoor l ft d items => some (l, 0x16#8, ft, d :: itemBytes items)
  | .setProfile l ft d span segments => some (l, 0x17#8, ft, d :: (bytes16 span ++ segments))
  | .setCoil l ft c items => some (l, 0x18#8, ft, c :: itemBytes items)
  | .setPlant l ft items => some (l, 0x19#8, ft, itemBytes items)
  | .setFloor l ft items => some (l, 0x1A#8, ft, itemBytes items)
  | .setTrucks l ft n => some (l, 0x1B#8, ft, [n])
  | .setClass l ft c items => some (l, 0x1C#8, ft, c :: itemBytes items)
  | .setRoute l ft k items => some (l, 0x1D#8, ft, k :: itemBytes items)
  | .lock l ft g => some (l, 0x1E#8, ft, [g])
  | .readRoom l ft r => some (l, 0x1F#8, ft, [r])
  | .readDoor l ft d => some (l, 0x20#8, ft, [d])
  | .readCoil l ft c => some (l, 0x21#8, ft, [c])
  | .readPallet l ft t => some (l, 0x22#8, ft, bytes32 t)
  | .readMoves l ft i => some (l, 0x23#8, ft, [i])
  | .readAlarms l ft i => some (l, 0x24#8, ft, [i])
  | .readStatus l ft => some (l, 0x25#8, ft, [])
  | .readChanges l ft => some (l, 0x26#8, ft, [])
  | .readSettings l ft g o => some (l, 0x27#8, ft, [g, o])
  | .acknowledge l ft c => some (l, 0x28#8, ft, [c])
  | .setClock l ft d t => some (l, 0x29#8, ft, bytes16 d ++ bytes32 t)
  | .restart l ft => some (l, 0x2A#8, ft, [])
  | .commission l ft => some (l, 0x2B#8, ft, [])
  | .pinReset | .secondEvent | .exposureTick | .minuteEvent
  | .roomSensorStale _ | .roomOverTemp _ | .roomExposure _ | .sealQualification _ | .doorOpenLong _
  | .coolingInterval _ | .defrostOverrun _ | .dripEnd _ | .recoveryFail _ | .defrostDeferred _
  | .defrostBlocked _ | .pickTimeout _ | .transitLong _ | .moveStalled _ | .palletBreach _
  | .doorGrant _ | .slotGrant | .defrostEntry _ | .moveRelease | .closeOrder _
  | .frameDiscard _ | .frameGap _ | .characterError _ | .frameSent _ | .characterReceived .. => none

/-! ### The opcode table's words -/

/-- spec/opcode_table.json gives no row any bits: no word spells a command. -/
def decodeTableWord (_nbits _w : Nat) : Option Instr := none

end Sys2Proof
end

