-- ==== Sys2Proof/Config.lean ====
section
/-! DEFINITION. The fixed numbers of the part (00, Principal numbers, and the rules named at each). The spec
leaves no value to the implementation, so nothing here is free. -/

namespace Sys2Proof.Config

/-- The run-seconds counter stays at this value (R1). -/
def runSecondsMax : Nat := 4294967295

/-- Seconds of a day (R3). -/
def secondsPerDay : Nat := 86400

/-- The day after this one is day 0 (R3). -/
def dayMax : Nat := 65535

/-- An exposure tick falls at the multiples of this count (R2). -/
def tickPeriod : Nat := 10

/-- A minute event falls at the multiples of this count (R2). -/
def minutePeriod : Nat := 60

/-- The top of the exposure range (R17, R110). -/
def exposureMax : Nat := 9999999

/-- The bound of every temperature, in tenths, on either side of 0 (00, Temperatures). -/
def tempMax : Int := 500

/-- Where stale counts and coil minute counters stay (R13, R69). -/
def counterMax : Nat := 65535

/-- Where pick seconds stay (R127). -/
def pickSecondsMax : Nat := 1800

/-- Where recall counts, repeat counts and the direction run's length stay (R128, R145, 07). -/
def countMax : Nat := 255

/-- Records of the pallet table (R99). -/
def palletCapacity : Nat := 256

/-- Records of the move queue (R117). -/
def moveCapacity : Nat := 48

/-- Entries of the active alarm list (R145). -/
def alarmCapacity : Nat := 64

/-- Places of a link's notice queue (R169). -/
def noticeCapacity : Nat := 32

/-- Places of a link's answer queue (R163). -/
def answerCapacity : Nat := 8

/-- Entries of one PALLETS SHIPPED notice (R114). -/
def shippedPerNotice : Nat := 8

/-- Records of one page of READ MOVES and READ ALARMS (R171). -/
def pageSize : Nat := 8

end Sys2Proof.Config
end

