-- ==== Sys2Proof/Machine/State.lean ====
section
/-! DEFINITION. The state of the part: every setting, record, queue, list and flag the spec gives it, as plain data,
and the queue of waiting commands. INVENTORY.md lists each with its rule and its reset value. -/

namespace Sys2Proof.Machine

/-! ### Names the manual gives -/

/-- The part's two modes (R177). -/
inductive Mode where
  | setup
  | run
  deriving DecidableEq, Repr

/-- The seven settings groups, in the order of their encoding (10, Groups; R182). -/
inductive Group where
  | room
  | door
  | coil
  | plant
  | floor
  | cls
  | route
  deriving DecidableEq, Repr

/-- The role of a room (R6). -/
inductive Role where
  | store
  | dockHall
  deriving DecidableEq, Repr

/-- The four pallet classes, in the order of their encoding (R183). -/
inductive PClass where
  | deep
  | frozen
  | chilled
  | cool
  deriving DecidableEq, Repr

/-- The last sample of a room (R9, R10). -/
inductive Sample where
  | absent
  | fault
  | value (v : Int)
  deriving DecidableEq, Repr

/-- The door states, in the order of their encoding (R183, 02 Door states). -/
inductive DoorState where
  | vacant
  | docked
  | sealed
  | waiting
  | opened
  | breach
  | service
  deriving DecidableEq, Repr

/-- A seal value (R35). -/
inductive Seal where
  | lost
  | good
  deriving DecidableEq, Repr

/-- The seal mode of a door (R37). -/
inductive SealMode where
  | normal
  | latched
  deriving DecidableEq, Repr

/-- The breach cause (R38). -/
inductive Cause where
  | sealLoss
  | forced
  | trailer
  deriving DecidableEq, Repr

/-- The reason of a close order (R44). -/
inductive CloseReason where
  | openLong
  | defrost
  deriving DecidableEq, Repr

/-- The reason of a REQUEST DROPPED (R57). -/
inductive DropReason where
  | restraint
  | sealLost
  | trailer
  deriving DecidableEq, Repr

/-- The group role of a coil (R74). -/
inductive GroupRole where
  | alone
  | lead
  | follow
  deriving DecidableEq, Repr

/-- The coil phases, in the order of their encoding (R183, 04 Phases). -/
inductive Phase where
  | cooling
  | due
  | armed
  | defrost
  | drip
  | recover
  | off
  deriving DecidableEq, Repr

/-- How a coil last left DEFROST or DRIP by an order (R78, R79, R87). -/
inductive Stop where
  | terminated
  | overrun
  | restart
  deriving DecidableEq, Repr

/-- A location (R102). A move's destination is ROOM or TRAILER. -/
inductive Loc where
  | room (r : RoomId)
  | trailer (d : DoorId)
  | transit
  deriving DecidableEq, Repr

/-- The direction of a move (07, The move record). -/
inductive Direction where
  | inbound
  | other
  deriving DecidableEq, Repr

/-- The state of a move (07). -/
inductive MoveState where
  | queued
  | released
  | picked
  deriving DecidableEq, Repr

/-- The reason of a recall (R128). -/
inductive RecallReason where
  | timeout
  | doorClosed
  deriving DecidableEq, Repr

/-- The reason of an abort (R132). -/
inductive AbortReason where
  | trailerGone
  | breach
  deriving DecidableEq, Repr

/-- The thirteen alarm kinds, numbered from 1 (08, Alarm kinds). -/
inductive Kind where
  | doorOpenLong
  | doorSealLost
  | doorForced
  | roomOverTemp
  | roomSensorStale
  | roomExposure
  | defrostOverrun
  | recoveryFail
  | defrostDeferred
  | defrostBlocked
  | palletBreach
  | transitLong
  | moveStalled
  deriving DecidableEq, Repr

/-- The report mode of a route (R142). -/
inductive ReportMode where
  | level
  | edge
  deriving DecidableEq, Repr

/-- The answer codes, in the order of their encoding (R165, R182). -/
inductive AnswerCode where
  | done
  | late
  | tooLate
  | refusedLink
  | refusedMode
  | badValue
  | noSuch
  | exists_
  | full
  | wrongState
  | wrongPlace
  | locked
  | incomplete
  deriving DecidableEq, Repr

/-! ### The settings store (10) -/

/-- The room settings (R6). -/
structure RoomSettings where
  role           : Role := .store
  cls            : PClass := .frozen
  alarmLimit     : Int := -150
  recoverLimit   : Int := -170
  filterWeight   : Nat := 4
  sampleOffset   : Int := 0
  staleLimit     : Nat := 300
  staleBias      : Nat := 20
  qualify        : Nat := 120
  doorBudget     : Nat := 2
  capacity       : Nat := 0
  exposureBudget : Nat := 36000
  deriving DecidableEq, Repr

/-- The door settings, the profile among them (R27). -/
structure DoorSettings where
  innerRoom   : Option RoomId := none
  openLimit   : Nat := 600
  sealQualify : Nat := 5
  sealMode    : SealMode := .normal
  autoClose   : Bool := false
  span        : Nat := 60
  segments    : Vector Int 8 := Vector.replicate 8 0
  deriving DecidableEq, Repr

/-- The coil settings; the cooling interval and the defrost max are the values in force (R66). -/
structure CoilSettings where
  room        : Option RoomId := none
  role        : GroupRole := .alone
  interval    : Nat := 480
  defrostMax  : Nat := 30
  drip        : Nat := 5
  recoverTime : Nat := 30
  deriving DecidableEq, Repr

/-- The plant settings (R94). -/
structure PlantSettings where
  slotLimit   : Nat := 1
  windowStart : Nat := 0
  windowEnd   : Nat := 0
  deferLimit  : Nat := 120
  forceLimit  : Nat := 240
  armLimit    : Nat := 15
  deriving DecidableEq, Repr

/-- The floor settings (R101, R137). -/
structure FloorSettings where
  transitRoom    : Option RoomId := none
  quarantineRoom : Option RoomId := none
  transitOffset  : Int := 0
  truckLimit     : Nat := 4
  share          : Nat := 3
  pickLimit      : Nat := 300
  transitLimit   : Nat := 600
  stallLimit     : Nat := 1800
  deriving DecidableEq, Repr

/-- One row of the class table (R100). -/
structure ClassRow where
  limit  : Int
  budget : Nat
  deriving DecidableEq, Repr

/-- One route (R142). The copy links are a set: bit i stands for the link encoded i (R183). -/
structure Route where
  masked : Bool
  mode   : ReportMode
  ack    : Link
  copies : BitVec 3
  code   : Nat
  deriving DecidableEq, Repr

/-- The settings store: the mode, one lock for each group, and every setting of every block (10). -/
structure Store where
  mode    : Mode
  locks   : Vector Bool 7
  rooms   : Vector RoomSettings 8
  doors   : Vector DoorSettings 16
  coils   : Vector CoilSettings 12
  plant   : PlantSettings
  floor   : FloorSettings
  classes : Vector ClassRow 4
  routes  : Vector Route 13
  deriving DecidableEq, Repr

/-! ### The records of the blocks -/

/-- The time base (R1 to R3). The last two fields are the model's own: the exposure tick and the minute event that
R2 issues with a second event, while they have not yet been taken (log entry 2). -/
structure TimeBase where
  runSeconds   : Nat
  day          : Nat
  second       : Nat
  tickIssued   : Bool
  minuteIssued : Bool
  deriving DecidableEq, Repr

/-- A room record (01, The room table). -/
structure Room where
  f16          : Int := 0
  f            : Int := 0
  seeded       : Bool := false
  last         : Sample := .absent
  clamped      : Bool := false
  staleCount   : Nat := 0
  stale        : Bool := false
  declared     : Bool := false
  qualifyCount : Nat := 0
  exposure     : Nat := 0
  reached      : Bool := false
  occupancy    : Nat := 0
  reservations : Nat := 0
  openDoors    : Nat := 0
  granted      : Nat := 0
  hold         : Bool := false
  queue        : List DoorId := []
  deriving DecidableEq, Repr

/-- The last opening of a door: its duration, and its rise where a temperature was captured (R42). -/
structure Opening where
  duration : Nat
  rise     : Option Int
  deriving DecidableEq, Repr

/-- A door record (02, The door table). -/
structure Door where
  state     : DoorState := .vacant
  trailer   : Bool := false
  reading   : Option Int := none
  engaged   : Bool := false
  rawSeal   : Seal := .lost
  qualSeal  : Seal := .lost
  sealCount : Nat := 0
  isOpen    : Bool := false
  cause     : Option Cause := none
  openStart : Option Nat := none
  captured  : Option Int := none
  openLong  : Bool := false
  owed      : Option CloseReason := none
  sent      : Bool := false
  lane      : Option Tag := none
  lastOpen  : Option Opening := none
  deriving DecidableEq, Repr

/-- A coil record (04, The coil table). -/
structure Coil where
  phase          : Phase := .cooling
  phaseMinutes   : Nat := 0
  waitMinutes    : Nat := 0
  armMinutes     : Nat := 0
  dueStamp       : Option Nat := none
  stagedInterval : Option Nat := none
  stagedMax      : Option Nat := none
  slot           : Bool := false
  lastStop       : Option Stop := none
  deriving DecidableEq, Repr

/-- A pallet record (R99). -/
structure Pallet where
  tag      : Tag
  cls      : PClass
  loc      : Loc
  exposure : Nat
  budget   : Nat
  breached : Bool
  live     : Bool
  stamp    : Nat
  lastTemp : Option Int
  deriving DecidableEq, Repr

/-- A move record (07, The move record). -/
structure Move where
  tag          : Tag
  source       : Loc
  dest         : Loc
  direction    : Direction
  state        : MoveState
  enqueueStamp : Nat
  stateStamp   : Nat
  pickSeconds  : Nat
  lanes        : List DoorId
  reservation  : Option RoomId
  recalls      : Nat
  deriving DecidableEq, Repr

/-- The direction run (R123). -/
structure DirectionRun where
  dir : Option Direction := none
  len : Nat := 0
  deriving DecidableEq, Repr

/-- An entry of the active alarm list (R145). The object is a door, room or coil number, or a tag. -/
structure Alarm where
  kind    : Kind
  object  : Nat
  stamp   : Nat
  repeats : Nat
  cond    : Option Bool
  deriving DecidableEq, Repr

/-- A change set: bit i of a field is the "changed" flag of object i (R154). -/
structure ChangeSet where
  doors : BitVec 16 := 0#16
  rooms : BitVec 8 := 0#8
  coils : BitVec 12 := 0#12
  deriving DecidableEq, Repr

/-! ### What waits on the links (09) -/

/-- A shipped pallet as PALLETS SHIPPED reports it (R114). -/
structure Shipped where
  tag      : Tag
  exposure : Nat
  breached : Bool
  deriving DecidableEq, Repr

/-- The notices, each with what it carries (09, Notice queues; R182, Notice bodies). -/
inductive Notice where
  | defrostStart (coil : CoilId) (room : Option RoomId) (maximum : Nat)
  | defrostStop (coil : CoilId) (reason : Stop)
  | coolResume (coil : CoilId)
  | openPermit (door : DoorId) (room : Option RoomId)
  | requestDropped (door : DoorId) (reason : DropReason)
  | closeOrder (door : DoorId) (reason : CloseReason)
  | doorClosed (door : DoorId) (forced : Bool) (duration : Nat) (rise : Option Int)
  | moveGo (tag : Tag) (source dest : Loc)
  | moveRecalled (tag : Tag) (reason : RecallReason) (recalls : Nat)
  | moveHold (tag : Tag) (door : DoorId)
  | moveResume (tag : Tag) (door : DoorId)
  | moveAborted (tag : Tag) (reason : AbortReason) (state : MoveState) (loc : Option Loc)
  | palletsShipped (door : DoorId) (entries : List Shipped)
  | alarm (kind : Kind) (code object repeats : Nat) (cond : Option Bool) (copy : Bool) (day second : Nat)
  | restarted (link : Link) (day second : Nat)
  deriving DecidableEq, Repr

/-- A built answer: message kind and frame tag of its request, answer code, flags and result (R163, R164). -/
structure Answer where
  msg    : Byte
  ft     : Byte
  code   : AnswerCode
  flags  : Byte
  result : List Byte
  deriving DecidableEq, Repr

/-- The receive side of a link (R160): hunting, or assembling with the bytes taken after the start byte. -/
inductive Rx where
  | hunting
  | assembling (bytes : List Byte)
  deriving DecidableEq, Repr

/-- What the link block keeps for one link (R160, R163, R168, R169). `sending` holds the bytes of the frame being
sent. -/
structure LinkState where
  rx      : Rx := .hunting
  answers : List Answer := []
  notices : List Notice := []
  resync  : Bool := false
  sending : Option (List Byte) := none
  deriving DecidableEq, Repr

/-! ### The part, and the state -/

/-- Everything the spec gives the part. -/
structure Part where
  time    : TimeBase
  store   : Store
  rooms   : Vector Room 8
  doors   : Vector Door 16
  coils   : Vector Coil 12
  due     : List CoilId
  pallets : List Pallet
  moves   : List Move
  trucks  : Nat
  dirRun  : DirectionRun
  alarms  : List Alarm
  settled : List (Kind × Nat)
  changes : Vector ChangeSet 3
  links   : Vector LinkState 3
  deriving DecidableEq, Repr

/-- The state: the part, and the commands that wait to be taken, first in first out (log entry 1). -/
structure State where
  part    : Part
  pending : List Instr
  deriving DecidableEq, Repr

/-- No constructor: nothing the spec describes stops the part. A request that fails a check is answered with an
answer code (R165) and a bad frame is discarded (R162), both of them next states. -/
inductive Fault where
  deriving DecidableEq, Repr

/-- The reasons why a command would have no meaning in the model. -/
inductive Refusal where
  /-- Raised by an arm of `exec` whose command has not been given its meaning, and by nothing else; no arm is left
  in that state. Safe: the model stops where the part goes on. -/
  | notModelled (mnemonic : String)
  deriving DecidableEq, Repr

/-! ### Pin reset (R179) -/

/-- The pin-reset route of a kind (08, Routes). -/
def Route.initial (mode : ReportMode) (ack : Link) (code : Nat) : Route :=
  { masked := true, mode := mode, ack := ack, copies := 0#3, code := code }

/-- The settings store after pin reset: SETUP, no lock, every setting at its pin-reset value (R179). -/
def Store.reset : Store where
  mode := .setup
  locks := Vector.replicate 7 false
  rooms := Vector.replicate 8 {}
  doors := Vector.replicate 16 {}
  coils := Vector.replicate 12 {}
  plant := {}
  floor := {}
  classes := #v[⟨-250, 18000⟩, ⟨-180, 24000⟩, ⟨40, 12000⟩, ⟨120, 12000⟩]
  routes := #v[
    .initial .level .dock 1, .initial .level .dock 2, .initial .edge .dock 3,
    .initial .level .plant 4, .initial .level .plant 5, .initial .edge .plant 6,
    .initial .edge .plant 7, .initial .edge .plant 8, .initial .level .plant 9, .initial .level .plant 10,
    .initial .edge .floor 11, .initial .level .floor 12, .initial .level .floor 13]

/-- The part after pin reset (R179, and the "after pin reset" column of every reset table). -/
def Part.reset : Part where
  time := { runSeconds := 0, day := 0, second := 0, tickIssued := false, minuteIssued := false }
  store := Store.reset
  rooms := Vector.replicate 8 {}
  doors := Vector.replicate 16 {}
  coils := Vector.replicate 12 {}
  due := []
  pallets := []
  moves := []
  trucks := 0
  dirRun := {}
  alarms := []
  settled := []
  changes := Vector.replicate 3 {}
  links := Vector.replicate 3 {}

/-- The machine right after reset: the part after pin reset, and no command waiting. -/
def State.reset : State where
  part := Part.reset
  pending := []

end Sys2Proof.Machine
end

