-- ==== Sys2Proof/Machine/Ops.lean ====
section
/-! DEFINITION. The named operations over the part's tables: reading and updating one record, the object numbers in
order, saturating and clamping, the stamps and ages, the change sets and the notice queues. Every block's rules are
written over these. -/

namespace Sys2Proof.Machine

/-! ### Places in the tables -/

/-- A link's encoding (R183). -/
def linkIndex : Link → Fin 3
  | .plant => 0
  | .dock => 1
  | .floor => 2

/-- A class's encoding (R183), its row in the class table. -/
def classIndex : PClass → Fin 4
  | .deep => 0
  | .frozen => 1
  | .chilled => 2
  | .cool => 3

/-- A group's encoding (R182). -/
def groupIndex : Group → Fin 7
  | .room => 0
  | .door => 1
  | .coil => 2
  | .plant => 3
  | .floor => 4
  | .cls => 5
  | .route => 6

/-- A kind's row in the route table; the kind number is one more (08, Alarm kinds). -/
def kindIndex : Kind → Fin 13
  | .doorOpenLong => 0
  | .doorSealLost => 1
  | .doorForced => 2
  | .roomOverTemp => 3
  | .roomSensorStale => 4
  | .roomExposure => 5
  | .defrostOverrun => 6
  | .recoveryFail => 7
  | .defrostDeferred => 8
  | .defrostBlocked => 9
  | .palletBreach => 10
  | .transitLong => 11
  | .moveStalled => 12

/-- The kind's number, 1..13. -/
def kindNumber (k : Kind) : Nat := (kindIndex k).val + 1

/-- The rooms, doors, coils and links in object order (00, Numbering). -/
def allRooms : List RoomId := [0, 1, 2, 3, 4, 5, 6, 7]
def allDoors : List DoorId := [0, 1, 2, 3, 4, 5, 6, 7, 8, 9, 10, 11, 12, 13, 14, 15]
def allCoils : List CoilId := [0, 1, 2, 3, 4, 5, 6, 7, 8, 9, 10, 11]
def allLinks : List Link := [.plant, .dock, .floor]

/-! ### Reading a record -/

def Part.room (p : Part) (r : RoomId) : Room := p.rooms[r.val]
def Part.door (p : Part) (d : DoorId) : Door := p.doors[d.val]
def Part.coil (p : Part) (c : CoilId) : Coil := p.coils[c.val]
def Part.link (p : Part) (l : Link) : LinkState := p.links[(linkIndex l).val]
def Part.change (p : Part) (l : Link) : ChangeSet := p.changes[(linkIndex l).val]

/-- The settings of an object. -/
def Part.roomSet (p : Part) (r : RoomId) : RoomSettings := p.store.rooms[r.val]
def Part.doorSet (p : Part) (d : DoorId) : DoorSettings := p.store.doors[d.val]
def Part.coilSet (p : Part) (c : CoilId) : CoilSettings := p.store.coils[c.val]
def Part.classRow (p : Part) (k : PClass) : ClassRow := p.store.classes[(classIndex k).val]
def Part.route (p : Part) (k : Kind) : Route := p.store.routes[(kindIndex k).val]
def Part.locked (p : Part) (g : Group) : Bool := p.store.locks[(groupIndex g).val]

/-- The part is in RUN. -/
def Part.running (p : Part) : Bool := p.store.mode == .run

/-- The present run seconds. -/
def Part.now (p : Part) : Nat := p.time.runSeconds

/-- The minute of day: a view of the second of day (R3). -/
def Part.minute (p : Part) : Nat := p.time.second / 60

/-- The room a coil belongs to. -/
def Part.coilRoom (p : Part) (c : CoilId) : Option RoomId := (p.coilSet c).room

/-- The room a door opens into. -/
def Part.inner (p : Part) (d : DoorId) : Option RoomId := (p.doorSet d).innerRoom

/-! ### Updating a record -/

def Part.updRoom (p : Part) (r : RoomId) (f : Room → Room) : Part :=
  { p with rooms := p.rooms.set r.val (f (p.room r)) }
def Part.updDoor (p : Part) (d : DoorId) (f : Door → Door) : Part :=
  { p with doors := p.doors.set d.val (f (p.door d)) }
def Part.updCoil (p : Part) (c : CoilId) (f : Coil → Coil) : Part :=
  { p with coils := p.coils.set c.val (f (p.coil c)) }
def Part.updLink (p : Part) (l : Link) (f : LinkState → LinkState) : Part :=
  { p with links := p.links.set (linkIndex l).val (f (p.link l)) }
def Part.updChange (p : Part) (l : Link) (f : ChangeSet → ChangeSet) : Part :=
  { p with changes := p.changes.set (linkIndex l).val (f (p.change l)) }

def Part.setRoomSet (p : Part) (r : RoomId) (x : RoomSettings) : Part :=
  { p with store := { p.store with rooms := p.store.rooms.set r.val x } }
def Part.setDoorSet (p : Part) (d : DoorId) (x : DoorSettings) : Part :=
  { p with store := { p.store with doors := p.store.doors.set d.val x } }
def Part.setCoilSet (p : Part) (c : CoilId) (x : CoilSettings) : Part :=
  { p with store := { p.store with coils := p.store.coils.set c.val x } }
def Part.setPlantSet (p : Part) (x : PlantSettings) : Part :=
  { p with store := { p.store with plant := x } }
def Part.setFloorSet (p : Part) (x : FloorSettings) : Part :=
  { p with store := { p.store with floor := x } }
def Part.setClassRow (p : Part) (k : PClass) (x : ClassRow) : Part :=
  { p with store := { p.store with classes := p.store.classes.set (classIndex k).val x } }
def Part.setRoute (p : Part) (k : Kind) (x : Route) : Part :=
  { p with store := { p.store with routes := p.store.routes.set (kindIndex k).val x } }
def Part.setLock (p : Part) (g : Group) : Part :=
  { p with store := { p.store with locks := p.store.locks.set (groupIndex g).val true } }

/-- A change of the part, with the waiting commands left as they are. -/
def State.onPart (s : State) (f : Part → Part) : State := { s with part := f s.part }

/-! ### Arithmetic of the part -/

/-- A counter that advances by one and stays at its top. -/
def satSucc (top n : Nat) : Nat := if top ≤ n then n else n + 1

/-- A temperature held within the range of the part (R10, R17, R109). -/
def clampTemp (t : Int) : Int :=
  if t < -Config.tempMax then -Config.tempMax else if Config.tempMax < t then Config.tempMax else t

/-- The tenths of t above a limit, 0 at or below it (R17, R110). -/
def excessOver (t limit : Int) : Nat := (t - limit).toNat

/-- An exposure account after some degree-seconds more: it saturates (R17, R110). -/
def addExposure (e x : Nat) : Nat := min Config.exposureMax (e + x)

/-! ### Records found by tag -/

/-- The pallet record of a tag (R99: at most one). -/
def Part.pallet? (p : Part) (t : Tag) : Option Pallet := p.pallets.find? (fun x => x.tag == t)

/-- The move record of a tag (R117: at most one). -/
def Part.move? (p : Part) (t : Tag) : Option Move := p.moves.find? (fun m => m.tag == t)

/-- A change of the pallet record of a tag, in its place in the table. -/
def Part.updPallet (p : Part) (t : Tag) (f : Pallet → Pallet) : Part :=
  { p with pallets := p.pallets.map (fun x => if x.tag == t then f x else x) }

/-- A change of the move record of a tag, in its place in the queue (R117). -/
def Part.updMove (p : Part) (t : Tag) (f : Move → Move) : Part :=
  { p with moves := p.moves.map (fun m => if m.tag == t then f m else m) }

/-- The record of a tag leaves the queue and the records behind it close up (R117). -/
def Part.dropMove (p : Part) (t : Tag) : Part :=
  { p with moves := p.moves.filter (fun m => m.tag != t) }

/-! ### Notices (R169) -/

/-- A notice is queued at the tail of a link's notice queue, or dropped with the resync flag set when 32 wait. -/
def LinkState.queue (k : LinkState) (n : Notice) : LinkState :=
  if k.notices.length < Config.noticeCapacity then { k with notices := k.notices ++ [n] }
  else { k with resync := true }

def Part.notify (p : Part) (l : Link) (n : Notice) : Part := p.updLink l (fun k => k.queue n)

/-! ### Change sets (R154) -/

/-- One flag set among the flags of a change set. -/
def markBit {w : Nat} (b : BitVec w) (i : Nat) : BitVec w := b ||| BitVec.twoPow w i

/-- The same change of every link's change set. -/
def Part.onChanges (p : Part) (f : ChangeSet → ChangeSet) : Part :=
  ((p.updChange .plant f).updChange .dock f).updChange .floor f

def Part.markDoor (p : Part) (d : DoorId) : Part :=
  p.onChanges (fun c => { c with doors := markBit c.doors d.val })
def Part.markRoom (p : Part) (r : RoomId) : Part :=
  p.onChanges (fun c => { c with rooms := markBit c.rooms r.val })
def Part.markCoil (p : Part) (c : CoilId) : Part :=
  p.onChanges (fun x => { x with coils := markBit x.coils c.val })

end Sys2Proof.Machine
end

