-- ==== Sys2Proof/Machine/Flags.lean ====
section
/-! DEFINITION. What the part reads off its records: the views the rules define and do not store (rest state, open
seconds, apron offset, suppression, quiet, acceptance, eligibility), and the level conditions of the alarm kinds. -/

namespace Sys2Proof.Machine

/-! ### Doors (02) -/

/-- OPEN and BREACH are the open states (R30). -/
def Door.openState (d : Door) : Bool := d.state == .opened || d.state == .breach

/-- VACANT, DOCKED and SEALED are the closed states (R30). -/
def Door.closedState (d : Door) : Bool :=
  d.state == .vacant || d.state == .docked || d.state == .sealed

/-- The state a closed door stands in, from its physical fields (R30). -/
def Door.restState (d : Door) : DoorState :=
  if d.trailer then
    if d.engaged && d.qualSeal == .good then .sealed else .docked
  else .vacant

/-- The open seconds of a door in an open state (R43). -/
def Door.openSeconds (d : Door) (now : Nat) : Nat := now - d.openStart.getD now

/-- The opening of a door in an open state began with a grant (R38). -/
def Door.byGrant (d : Door) : Bool :=
  d.state == .opened || (d.state == .breach && d.cause != some .forced)

/-- The apron offset of a door, in tenths (R47). -/
def apronOffset (d : Door) (x : DoorSettings) (now : Nat) : Int :=
  if d.openState then
    x.segments[min 7 (d.openSeconds now / x.span)]'(Nat.lt_succ_of_le (Nat.min_le_left ..)) * 5
  else 0

/-! ### Rooms (01) -/

/-- The raw over-temperature condition (R14). -/
def Room.raw (r : Room) (x : RoomSettings) : Bool := r.seeded && decide (x.alarmLimit < r.f)

/-- A room's F with the stale bias while it is stale, before any clamp (R17, R109). -/
def Room.biased (r : Room) (x : RoomSettings) : Int := if r.stale then r.f + x.staleBias else r.f

/-- The coils of a room. -/
def Part.coilsOf (p : Part) (r : RoomId) : List CoilId :=
  allCoils.filter (fun c => p.coilRoom c == some r)

/-- The phases that suppress a room's over-temperature (R16). -/
def Phase.suppresses : Phase → Bool
  | .defrost | .drip | .recover => true
  | _ => false

/-- The phases that set a room's defrost hold (R22). -/
def Phase.holds : Phase → Bool
  | .armed | .defrost | .drip => true
  | _ => false

/-- A room is suppressed while a coil of it is in DEFROST, DRIP or RECOVER (R16). -/
def Part.suppressed (p : Part) (r : RoomId) : Bool :=
  (p.coilsOf r).any (fun c => (p.coil c).phase.suppresses)

/-- The defrost hold as the coil table gives it (R22). -/
def Part.holdWanted (p : Part) (r : RoomId) : Bool :=
  (p.coilsOf r).any (fun c => (p.coil c).phase.holds)

/-! ### Moves (07) -/

/-- The direction follows from the source (07, The move record). -/
def directionOf : Loc → Direction
  | .trailer _ => .inbound
  | _ => .other

/-- A move that counts in the truck count. -/
def Move.inFlight (m : Move) : Bool := m.state == .released || m.state == .picked

/-- A move has ROOM r as its source or its destination (R76). -/
def Move.touches (m : Move) (r : RoomId) : Bool := m.source == .room r || m.dest == .room r

/-- A move has TRAILER d as its source or its destination (R135). -/
def Move.namesTrailer (m : Move) (d : DoorId) : Bool := m.source == .trailer d || m.dest == .trailer d

/-- A room is quiet: no door of it open, and no released or picked move touching it (R76). The doors are read from
the room's open-door count (R21; log entry 20). -/
def Part.quiet (p : Part) (r : RoomId) : Bool :=
  (p.room r).openDoors == 0 && !p.moves.any (fun m => m.inFlight && m.touches r)

/-- A room accepts a pallet of a class, breached or not (R103). -/
def Part.accepts (p : Part) (r : RoomId) (cls : PClass) (breached : Bool) : Bool :=
  decide ((p.room r).occupancy + (p.room r).reservations < (p.roomSet r).capacity) &&
  (p.store.floor.quarantineRoom == some r ||
    (!breached && decide ((p.classRow (p.roomSet r).cls).limit ≤ (p.classRow cls).limit)))

/-- Acceptance of the pallet of a tag, where the table holds it. -/
def Part.acceptsTag (p : Part) (r : RoomId) (t : Tag) : Bool :=
  match p.pallet? t with
  | some x => p.accepts r x.cls x.breached
  | none => false

/-- The source half of eligibility (R121). -/
def Part.sourceReady (p : Part) : Loc → Bool
  | .trailer d => (p.door d).state == .opened && (p.door d).lane == none
  | .room r => !(p.room r).hold
  | .transit => true

/-- The destination half of eligibility (R121). -/
def Part.destReady (p : Part) (t : Tag) : Loc → Bool
  | .trailer d => (p.door d).state == .opened && (p.door d).trailer && (p.door d).lane == none
  | .room r => p.acceptsTag r t && !(p.room r).hold
  | .transit => false

/-- A QUEUED move is eligible for release (R121). -/
def Part.eligible (p : Part) (m : Move) : Bool :=
  m.state == .queued && p.sourceReady m.source && p.destReady m.tag m.dest

/-- A destination that a breached pallet's move may not keep (R112, R128). -/
def Part.offQuarantine (p : Part) (dest : Loc) : Bool :=
  match p.store.floor.quarantineRoom with
  | some q => dest != .room q
  | none => true

/-! ### The slot arbiter (05) -/

/-- The slots held: the coils whose slot held is yes (R88). -/
def Part.slotsHeld (p : Part) : Nat := (allCoils.filter (fun c => (p.coil c).slot)).length

/-- The minute of day lies inside the quiet window (R92). -/
def PlantSettings.inWindow (x : PlantSettings) (m : Nat) : Bool :=
  if x.windowStart = x.windowEnd then false
  else if x.windowStart < x.windowEnd then decide (x.windowStart ≤ m) && decide (m < x.windowEnd)
  else decide (x.windowStart ≤ m) || decide (m < x.windowEnd)

/-- A coil of the DUE queue is eligible for a slot (R92). -/
def Part.slotEligible (p : Part) (c : CoilId) : Bool :=
  !p.store.plant.inWindow p.minute ||
  (p.store.plant.forceLimit != 0 && decide (p.store.plant.forceLimit ≤ (p.coil c).waitMinutes))

/-! ### Level conditions (08, Alarm kinds) -/

/-- DEFROST DEFERRED (R96). -/
def Part.deferred (p : Part) (c : CoilId) : Bool :=
  ((p.coil c).phase == .due || (p.coil c).phase == .armed) &&
  p.store.plant.deferLimit != 0 && decide (p.store.plant.deferLimit ≤ (p.coil c).waitMinutes)

/-- DEFROST BLOCKED (R97). -/
def Part.blocked (p : Part) (c : CoilId) : Bool :=
  (p.coil c).phase == .armed &&
  p.store.plant.armLimit != 0 && decide (p.store.plant.armLimit ≤ (p.coil c).armMinutes)

/-- TRANSIT LONG (R136). -/
def Part.transitLong (p : Part) (t : Tag) : Bool :=
  match p.move? t with
  | some m => m.state == .picked && decide (p.store.floor.transitLimit ≤ p.now - m.stateStamp)
  | none => false

/-- MOVE STALLED (R136). -/
def Part.moveStalled (p : Part) (t : Tag) : Bool :=
  match p.move? t with
  | some m => m.state == .queued && decide (p.store.floor.stallLimit ≤ p.now - m.stateStamp)
  | none => false

/-- The present truth of a level condition, read from its owner (R141); false for an edge kind, and for an object
that is not there. -/
def Part.condition (p : Part) (k : Kind) (object : Nat) : Bool :=
  match k with
  | .doorOpenLong => if h : object < 16 then (p.door ⟨object, h⟩).openLong else false
  | .doorSealLost => if h : object < 16 then (p.door ⟨object, h⟩).state == .breach else false
  | .roomOverTemp => if h : object < 8 then (p.room ⟨object, h⟩).declared else false
  | .roomSensorStale => if h : object < 8 then (p.room ⟨object, h⟩).stale else false
  | .defrostDeferred => if h : object < 12 then p.deferred ⟨object, h⟩ else false
  | .defrostBlocked => if h : object < 12 then p.blocked ⟨object, h⟩ else false
  | .transitLong => p.transitLong object
  | .moveStalled => p.moveStalled object
  | .doorForced | .roomExposure | .defrostOverrun | .recoveryFail | .palletBreach => false

/-! ### The flags of an answer (R164) -/

/-- The list-full indication (R152). -/
def Part.listFull (p : Part) : Bool := Config.alarmCapacity ≤ p.alarms.length

/-- Bits as a number, the first at bit 0. -/
def bitsNat : List Bool → Nat
  | [] => 0
  | b :: rest => (if b then 1 else 0) + 2 * bitsNat rest

/-- The flags byte of an answer on a link: resync owed, list full, mode RUN (R164, R182). -/
def Part.flags (p : Part) (l : Link) : Byte :=
  BitVec.ofNat 8 (bitsNat [(p.link l).resync, p.listFull, p.running])

end Sys2Proof.Machine
end

