-- ==== Sys2Proof/Machine/Alarms.lean ====
section
/-! DEFINITION. The alarm block (08): making and repeating entries of the active alarm list, following level
conditions, the settled set, the ALARM notices, re-examination and acknowledgement. -/

namespace Sys2Proof.Machine

/-- The kinds in kind order (08). -/
def allKinds : List Kind :=
  [.doorOpenLong, .doorSealLost, .doorForced, .roomOverTemp, .roomSensorStale, .roomExposure, .defrostOverrun,
   .recoveryFail, .defrostDeferred, .defrostBlocked, .palletBreach, .transitLong, .moveStalled]

/-- Level kinds stand for a condition, edge kinds for an event (08, Alarm kinds). -/
def Kind.isLevel : Kind → Bool
  | .doorOpenLong | .doorSealLost | .roomOverTemp | .roomSensorStale | .defrostDeferred | .defrostBlocked
  | .transitLong | .moveStalled => true
  | .doorForced | .roomExposure | .defrostOverrun | .recoveryFail | .palletBreach => false

/-! ### The list and the settled set (R145) -/

/-- An alarm is the one of this kind and object. -/
def Alarm.isOf (a : Alarm) (k : Kind) (o : Nat) : Bool := a.kind == k && a.object == o

def Part.alarm? (p : Part) (k : Kind) (o : Nat) : Option Alarm := p.alarms.find? (fun a => a.isOf k o)

def Part.updAlarm (p : Part) (k : Kind) (o : Nat) (f : Alarm → Alarm) : Part :=
  { p with alarms := p.alarms.map (fun a => if a.isOf k o then f a else a) }

def Part.dropAlarm (p : Part) (k : Kind) (o : Nat) : Part :=
  { p with alarms := p.alarms.filter (fun a => !a.isOf k o) }

/-- The order in which the settled pairs are listed, so that equal sets are equal data (R145: kept in no order). -/
def pairBefore (x y : Kind × Nat) : Bool :=
  decide (kindIndex x.1 < kindIndex y.1) || (x.1 == y.1 && decide (x.2 < y.2))

/-- A pair enters a set of pairs, once. -/
def insertPair (x : Kind × Nat) : List (Kind × Nat) → List (Kind × Nat)
  | [] => [x]
  | y :: rest => if x = y then y :: rest else if pairBefore x y then x :: y :: rest else y :: insertPair x rest

def Part.settle (p : Part) (k : Kind) (o : Nat) : Part := { p with settled := insertPair (k, o) p.settled }

def Part.unsettle (p : Part) (k : Kind) (o : Nat) : Part :=
  { p with settled := p.settled.filter (fun x => x != (k, o)) }

def Part.isSettled (p : Part) (k : Kind) (o : Nat) : Bool := p.settled.contains (k, o)

/-! ### ALARM notices (R149) -/

/-- The ALARM notice of an alarm as one link receives it. -/
def Part.alarmNotice (p : Part) (a : Alarm) (l : Link) : Notice :=
  .alarm a.kind (p.route a.kind).code a.object a.repeats a.cond (l != (p.route a.kind).ack) p.time.day p.time.second

/-- A link receives a route's notices as its acknowledging link or as a copy link (R142, R149). -/
def Route.sendsTo (r : Route) (l : Link) : Bool := l == r.ack || r.copies.getLsbD (linkIndex l).val

/-- One ALARM notice on the acknowledging link and on each copy link (R149). -/
def Part.sendAlarm (p : Part) (a : Alarm) : Part :=
  allLinks.foldl (fun q l => if (q.route a.kind).sendsTo l then q.notify l (q.alarmNotice a l) else q) p

/-- An alarm is made at the tail of the list with repeat count 1, and its notice is sent (R146, R147). -/
def Part.makeAlarm (p : Part) (k : Kind) (o : Nat) (cond : Option Bool) : Part :=
  let a : Alarm := { kind := k, object := o, stamp := p.now, repeats := 1, cond := cond }
  { p with alarms := p.alarms ++ [a] }.sendAlarm a

/-- The repeat count of a listed alarm rises, and its notice is sent again (R146, R151). -/
def Part.repeatAlarm (p : Part) (a : Alarm) : Part :=
  let b : Alarm := { a with repeats := satSucc Config.countMax a.repeats }
  (p.updAlarm a.kind a.object (fun _ => b)).sendAlarm b

/-! ### Raising (R146 to R148) -/

/-- An edge event is handed to the alarm block (R146). -/
def Part.raiseEdge (p : Part) (k : Kind) (o : Nat) : Part :=
  if (p.route k).masked then p
  else match p.alarm? k o with
    | some a => p.repeatAlarm a
    | none => if p.listFull then p else p.makeAlarm k o none

/-- A level condition is handed on as true (R147). A settled pair stands for a condition that is already true and
has been acknowledged, so it makes nothing (R145; log entry 11). -/
def Part.levelTrue (p : Part) (k : Kind) (o : Nat) : Part :=
  match p.alarm? k o with
  | some _ => p.updAlarm k o (fun a => { a with cond := some true })
  | none =>
    if (p.route k).masked || p.isSettled k o || p.listFull then p
    else p.makeAlarm k o (some true)

/-- A level condition is handed on as false (R148). -/
def Part.levelFalse (p : Part) (k : Kind) (o : Nat) : Part :=
  (p.updAlarm k o (fun a => { a with cond := some false })).unsettle k o

/-- A level condition is handed on (R141). -/
def Part.handLevel (p : Part) (k : Kind) (o : Nat) (now : Bool) : Part :=
  if now then p.levelTrue k o else p.levelFalse k o

/-- A level condition is examined: its owner hands on its present truth (R96, R97, R136). -/
def Part.examine (p : Part) (k : Kind) (o : Nat) : Part := p.handLevel k o (p.condition k o)

/-- Both conditions of a coil are examined (R96, R97). -/
def Part.examineCoil (p : Part) (c : CoilId) : Part :=
  (p.examine .defrostDeferred c.val).examine .defrostBlocked c.val

/-- Both conditions of a move are examined (R136). DESIGN CHOICE: TRANSIT LONG before MOVE STALLED (log entry 30). -/
def Part.examineMove (p : Part) (t : Tag) : Part :=
  (p.examine .transitLong t).examine .moveStalled t

/-! ### Re-examination (R153) -/

/-- A tag put in its place among rising tags. -/
def insertTag (t : Tag) : List Tag → List Tag
  | [] => [t]
  | u :: rest => if t ≤ u then t :: u :: rest else u :: insertTag t rest

/-- The objects of a kind in object order: numbers rising, and for the move kinds the tags of the moves in the queue
by rising value (R141). -/
def Part.objectsOf (p : Part) : Kind → List Nat
  | .doorOpenLong | .doorSealLost | .doorForced => allDoors.map (·.val)
  | .roomOverTemp | .roomSensorStale | .roomExposure => allRooms.map (·.val)
  | .defrostOverrun | .recoveryFail | .defrostDeferred | .defrostBlocked => allCoils.map (·.val)
  | .palletBreach => []
  | .transitLong | .moveStalled => (p.moves.map (·.tag)).foldr insertTag []

/-- One object under re-examination: a true condition with no alarm and no settled pair gets its alarm, while the
list is not full (R153). -/
def Part.reexamineOne (p : Part) (k : Kind) (o : Nat) : Part :=
  if p.condition k o && (p.alarm? k o).isNone && !p.isSettled k o && !p.listFull then
    p.makeAlarm k o (some true)
  else p

/-- A kind under re-examination, where its route is unmasked (R153). -/
def Part.reexamineKind (p : Part) (k : Kind) : Part :=
  if k.isLevel && !(p.route k).masked then (p.objectsOf k).foldl (fun q o => q.reexamineOne k o) p else p

/-- A re-examination of every unmasked level kind, in kind order (R153). -/
def Part.reexamineAll (p : Part) : Part := allKinds.foldl Part.reexamineKind p

/-! ### Acknowledgement (R150, R151) -/

/-- The acknowledgement's counts: the part so far, alarms removed, alarms notified again. -/
structure AckRun where
  part    : Part
  removed : Nat
  again   : Nat

/-- An acknowledgement with this code from this link matches an alarm (R150). -/
def Part.ackMatches (p : Part) (l : Link) (code : Nat) (a : Alarm) : Bool :=
  (p.route a.kind).code == code && (p.route a.kind).ack == l

/-- One matched alarm is settled by its kind, its route and its condition now (R151). -/
def AckRun.settleOne (x : AckRun) (a : Alarm) : AckRun :=
  let gone := { x with part := x.part.dropAlarm a.kind a.object, removed := x.removed + 1 }
  if a.cond = some true ∧ a.kind.isLevel then
    if (x.part.route a.kind).masked then gone
    else match (x.part.route a.kind).mode with
      | .level => { x with part := x.part.repeatAlarm a, again := x.again + 1 }
      | .edge => { gone with part := gone.part.settle a.kind a.object }
  else gone

/-- The acknowledgement of a code from a link: the matched alarms in list order, then one re-examination of every
unmasked route when at least one was removed (R151). -/
def Part.acknowledge (p : Part) (l : Link) (code : Nat) : AckRun :=
  let x := (p.alarms.filter (p.ackMatches l code)).foldl AckRun.settleOne { part := p, removed := 0, again := 0 }
  if 0 < x.removed then { x with part := x.part.reexamineAll } else x

end Sys2Proof.Machine
end

