-- ==== Sys2Proof/Machine/Passes.lean ====
section
/-! DEFINITION. The follow-ons that blocks hand one another: close orders and lanes (02), the release pass (07), the
grant pass (03), the defrost hold (01), the quiet check and the phases of a coil (04), the slot arbiter's pass (05),
and a move's recall and abort (07). They stand in the order in which they call one another. -/

namespace Sys2Proof.Machine

/-! ### Close orders and lanes (R44 to R46) -/

/-- An owed close order is sent when the door's lane is empty (R45). -/
def Part.sendCloseOrder (p : Part) (d : DoorId) : Part :=
  match (p.door d).owed, (p.door d).lane with
  | some reason, none =>
    (p.updDoor d (fun x => { x with owed := none, sent := true })).notify .dock (.closeOrder d reason)
  | _, _ => p

/-- A reason may become owed at a door: it is in an open state, has sent no order in this opening, and owes none, or
owes an OPEN LONG that a DEFROST replaces (R44). -/
def Door.mayOwe (x : Door) (reason : CloseReason) : Bool :=
  x.openState && !x.sent && (x.owed == none || (x.owed == some .openLong && reason == .defrost))

/-- A close order becomes owed, and is sent at once where the lane is empty (R44, R45). -/
def Part.owe (p : Part) (reason : CloseReason) (d : DoorId) : Part :=
  if (p.door d).mayOwe reason then (p.updDoor d (fun x => { x with owed := some reason })).sendCloseOrder d
  else p

/-- A lane is emptied, and the freeing is handed to the door block (R46). -/
def Part.freeLane (p : Part) (d : DoorId) : Part :=
  (p.updDoor d (fun x => { x with lane := none })).sendCloseOrder d

/-- A lane takes a move's tag (R124). -/
def Part.takeLane (p : Part) (t : Tag) (d : DoorId) : Part := p.updDoor d (fun x => { x with lane := some t })

/-! ### The release pass (R121 to R124) -/

/-- The door a location names. -/
def Loc.door? : Loc → Option DoorId
  | .trailer d => some d
  | _ => none

/-- The doors a move names, source first (R124). -/
def Move.laneDoors (m : Move) : List DoorId := m.source.door?.toList ++ m.dest.door?.toList

/-- The room a destination names. -/
def Loc.room? : Loc → Option RoomId
  | .room r => some r
  | _ => none

/-- A destination ROOM's reservations change (R124, R128, R130). -/
def Part.addReservation (p : Part) (r : Option RoomId) : Part :=
  match r with
  | some r => p.updRoom r (fun x => { x with reservations := x.reservations + 1 })
  | none => p

def Part.endReservation (p : Part) (r : Option RoomId) : Part :=
  match r with
  | some r => p.updRoom r (fun x => { x with reservations := x.reservations - 1 })
  | none => p

/-- A move is released: its state, its lanes, its reservation, its truck, and MOVE GO (R124). Its MOVE STALLED
condition ends with the state QUEUED (R136). -/
def Part.release (p : Part) (m : Move) : Part :=
  let p1 := p.updMove m.tag (fun x =>
    { x with state := .released, stateStamp := p.now, pickSeconds := 0, lanes := m.laneDoors,
             reservation := m.dest.room? })
  let p2 := (m.laneDoors.foldl (fun q d => q.takeLane m.tag d) p1).addReservation m.dest.room?
  let p3 := { p2 with trucks := p2.trucks + 1 }.notify .floor (.moveGo m.tag m.source m.dest)
  p3.examineMove m.tag

/-- The direction run after a release (R123 step 6). -/
def DirectionRun.after (x : DirectionRun) (d : Direction) : DirectionRun :=
  if x.dir = some d then { x with len := satSucc Config.countMax x.len } else { dir := some d, len := 1 }

/-- The move a step of the release pass chooses, the tags of `skip` passed over: none at the truck limit or where no
move is eligible; the oldest eligible move of the other direction once the run has its share, where there is one;
otherwise the oldest eligible move (R123 steps 1 to 4). -/
def Part.chooseMove (p : Part) (skip : List Tag) : Option Move :=
  if p.store.floor.truckLimit ≤ p.trucks then none
  else
    let eligible := p.moves.filter (fun m => p.eligible m && !skip.contains m.tag)
    let turn := if p.store.floor.share ≤ p.dirRun.len
      then eligible.find? (fun m => some m.direction != p.dirRun.dir) else none
    match turn with
    | some m => some m
    | none => eligible.head?

/-- The chosen move released, and the direction run updated (R123 steps 5 and 6). -/
def Part.releaseChosen (p : Part) (m : Move) : Part :=
  let q := p.release m
  { q with dirRun := q.dirRun.after m.direction }

/-- The steps of a release pass, at most n of them. -/
def releaseLoop (skip : List Tag) : Nat → Part → Part
  | 0, p => p
  | n + 1, p =>
    match p.chooseMove skip with
    | some m => releaseLoop skip n (p.releaseChosen m)
    | none => p

/-- The release pass of RUN, passing over the moves of `skip` (R122, R123, R127). Each step releases one QUEUED
move, so the length of the queue bounds the steps. -/
def Part.releasePassBut (p : Part) (skip : List Tag) : Part :=
  if p.running then releaseLoop skip p.moves.length p else p

/-- The release pass (R122). -/
def Part.releasePass (p : Part) : Part := p.releasePassBut []

/-! ### Door states and the notices to moves (R48, R50, R133) -/

/-- A door's state changes: the door is marked in every change set (R50, R154), and DOOR SEAL LOST follows the state
BREACH. The release pass that the change starts is its caller's last act (R42, R122). -/
def Part.changeDoor (p : Part) (d : DoorId) (st : DoorState) : Part :=
  if (p.door d).state = st then p
  else
    let q := (p.updDoor d (fun x => { x with state := st })).markDoor d
    if st = .breach then q.levelTrue .doorSealLost d.val
    else if (p.door d).state = .breach then q.levelFalse .doorSealLost d.val
    else q

/-- MOVE HOLD for the move that holds the door's lane (R133). -/
def Part.holdNotice (p : Part) (d : DoorId) : Part :=
  match (p.door d).lane with
  | some t => p.notify .floor (.moveHold t d)
  | none => p

/-- MOVE RESUME for the move that holds the door's lane (R133). -/
def Part.resumeNotice (p : Part) (d : DoorId) : Part :=
  match (p.door d).lane with
  | some t => p.notify .floor (.moveResume t d)
  | none => p

/-- A door enters BREACH with a cause (R38), and the move of its lane is told (R133). -/
def Part.enterBreach (p : Part) (d : DoorId) (cause : Cause) : Part :=
  ((p.updDoor d (fun x => { x with cause := some cause })).holdNotice d).changeDoor d .breach

/-- A door returns from BREACH to OPEN; its opening goes on (R37). -/
def Part.returnOpen (p : Part) (d : DoorId) : Part :=
  (((p.updDoor d (fun x => { x with cause := none })).changeDoor d .opened).resumeNotice d).releasePass

/-- A door of a closed state is moved to its rest state (R30). -/
def Part.takeRest (p : Part) (d : DoorId) : Part :=
  if (p.door d).closedState && (p.door d).restState != (p.door d).state then
    (p.changeDoor d (p.door d).restState).releasePass
  else p

/-! ### The grant pass (R58, R59) -/

/-- The head door of a room's queue is granted: it leaves the queue, enters OPEN (R39), and both counts rise (R21).
The change of its state starts the release pass (R122). -/
def Part.grant (p : Part) (r : RoomId) (d : DoorId) (rest : List DoorId) : Part :=
  let p1 := p.updRoom r (fun x => { x with queue := rest })
  let p2 := (p1.changeDoor d .opened).updDoor d (fun x =>
    { x with openStart := some p.now, captured := some (p.room r).f, openLong := false, owed := none, sent := false })
  let p3 := p2.notify .dock (.openPermit d (some r))
  let p4 := p3.updRoom r (fun x => { x with openDoors := x.openDoors + 1, granted := x.granted + 1 })
  p4.releasePass

/-- The grant conditions of a room (R59). -/
def Part.mayGrant (p : Part) (r : RoomId) : Bool :=
  !(p.room r).hold && decide ((p.room r).granted < (p.roomSet r).doorBudget)

/-- One grant of a room's pass, where its conditions hold and its queue is not empty (R59). -/
def Part.grantStep (p : Part) (r : RoomId) : Option Part :=
  match (p.room r).queue with
  | d :: rest => if p.mayGrant r then some (p.grant r d rest) else none
  | [] => none

/-- The grants of a pass, at most n of them. -/
def grantLoop (r : RoomId) : Nat → Part → Part
  | 0, p => p
  | n + 1, p =>
    match p.grantStep r with
    | some q => grantLoop r n q
    | none => p

/-- A room's grant pass of RUN (R58). No grant adds to the queue, so its length bounds the grants. -/
def Part.grantPass (p : Part) (r : RoomId) : Part :=
  if p.running then grantLoop r (p.room r).queue.length p else p

/-! ### Coil phases and the defrost hold (R22, R68) -/

/-- A coil's phase changes: phase minutes 0, the coil marked in every change set, and its conditions examined (R68,
R96, R97). What else the entry sets is the caller's. DESIGN CHOICE: the conditions are examined with the change of
phase itself, before the hold is re-evaluated and before every other action of the entry, where the rules give no order
(log entry 34). -/
def Part.setPhase (p : Part) (c : CoilId) (ph : Phase) (f : Coil → Coil) : Part :=
  ((p.updCoil c (fun x => f { x with phase := ph, phaseMinutes := 0 })).markCoil c).examineCoil c

/-- A room re-evaluates its defrost hold. When it goes from set to clear, the room's grant pass runs first and the
release pass after it (R22). -/
def Part.evalHold (p : Part) (r : RoomId) : Part :=
  if (p.room r).hold = p.holdWanted r then p
  else
    let q := (p.updRoom r (fun x => { x with hold := p.holdWanted r })).markRoom r
    if p.holdWanted r then q else (q.grantPass r).releasePass

/-- The room of a coil re-evaluates its hold (R68). -/
def Part.evalHoldOf (p : Part) (c : CoilId) : Part :=
  match p.coilRoom c with
  | some r => p.evalHold r
  | none => p

/-! ### Defrost (R72, R76, R77) -/

/-- A staged defrost max becomes the setting (R72). -/
def Part.applyStagedMax (p : Part) (c : CoilId) : Part :=
  match (p.coil c).stagedMax with
  | some v => (p.setCoilSet c { p.coilSet c with defrostMax := v }).updCoil c (fun x => { x with stagedMax := none })
  | none => p

/-- A staged cooling interval becomes the setting (R72). -/
def Part.applyStagedInterval (p : Part) (c : CoilId) : Part :=
  match (p.coil c).stagedInterval with
  | some v => (p.setCoilSet c { p.coilSet c with interval := v }).updCoil c (fun x => { x with stagedInterval := none })
  | none => p

/-- A coil enters DEFROST (R77). -/
def Part.enterDefrost (p : Part) (c : CoilId) : Part :=
  let q := ((p.setPhase c .defrost id).evalHoldOf c).applyStagedMax c
  q.notify .plant (.defrostStart c (q.coilRoom c) (q.coilSet c).defrostMax)

/-- A coil in ARMED that finds its room quiet enters DEFROST (R76). -/
def Part.defrostIfQuiet (p : Part) (r : RoomId) (c : CoilId) : Part :=
  if (p.coil c).phase = .armed ∧ p.quiet r = true then p.enterDefrost c else p

/-- Every coil of a room makes its quiet check, in coil-number order (R76). -/
def Part.quietCheck (p : Part) (r : RoomId) : Part :=
  (p.coilsOf r).foldl (fun q c => q.defrostIfQuiet r c) p

/-- The quiet checks of the room that a location names, where it names one (R76). -/
def Part.checkLoc (p : Part) (x : Loc) : Part :=
  match x with
  | .room r => p.quietCheck r
  | _ => p

/-- The quiet checks of the rooms a move named (R76, R126, R128, R130 to R132). DESIGN CHOICE: the source room's checks
come before the destination room's, where the rules give no order of two rooms (log entry 32). -/
def Part.checkMoveRooms (p : Part) (m : Move) : Part := (p.checkLoc m.source).checkLoc m.dest

/-! ### The slot arbiter's pass (R70, R74, R75, R90, R91) -/

/-- A coil enters DUE and joins the tail of the DUE queue; the pass that the entry starts is its caller's (R70). -/
def Part.dueEntry (p : Part) (c : CoilId) : Part :=
  let q := (p.setPhase c .due (fun x => { x with waitMinutes := 0, dueStamp := some p.now })).evalHoldOf c
  { q with due := q.due ++ [c] }

/-- The co-start: the FOLLOW coils of the room that are in COOLING go to DUE in coil-number order (R74). -/
def Part.coStart (p : Part) (r : RoomId) : Part :=
  (p.coilsOf r).foldl (fun q c =>
    if (q.coilSet c).role = .follow ∧ (q.coil c).phase = .cooling then q.dueEntry c else q) p

/-- The doors of a room, in door-number order. -/
def Part.doorsOf (p : Part) (r : RoomId) : List DoorId := allDoors.filter (fun d => p.inner d == some r)

/-- What an arming does in the coil's room, after the hold: close orders, the co-start of a LEAD, and the coil's own
quiet check (R75 steps 3 to 5). -/
def Part.armInRoom (p : Part) (c : CoilId) (r : RoomId) : Part :=
  let p1 := (p.doorsOf r).foldl (fun q d => q.owe .defrost d) p
  let p2 := if (p1.coilSet c).role = .lead then p1.coStart r else p1
  p2.defrostIfQuiet r c

/-- A coil is armed (R75). -/
def Part.arm (p : Part) (c : CoilId) : Part :=
  let q := (p.setPhase c .armed (fun x => { x with armMinutes := 0, slot := true })).evalHoldOf c
  match q.coilRoom c with
  | some r => q.armInRoom c r
  | none => q

/-- One grant of the arbiter's pass: while a slot is free, the first eligible coil of the DUE queue (R91). -/
def Part.slotStep (p : Part) : Option Part :=
  if p.store.plant.slotLimit ≤ p.slotsHeld then none
  else match p.due.find? p.slotEligible with
    | some c => some ({ p with due := p.due.erase c }.arm c)
    | none => none

/-- The grants of a pass, at most n of them. -/
def slotLoop : Nat → Part → Part
  | 0, p => p
  | n + 1, p =>
    match p.slotStep with
    | some q => slotLoop n q
    | none => p

/-- The arbiter's grant pass of RUN (R90). A coil is granted at most once in a pass, so the twelve coils bound it. -/
def Part.slotPass (p : Part) : Part := if p.running then slotLoop 12 p else p

/-- A coil goes to DUE, and the pass that its entry starts is taken (R70, R90). -/
def Part.enterDue (p : Part) (c : CoilId) : Part := (p.dueEntry c).slotPass

/-! ### Drip and recovery (R78 to R82) -/

/-- A coil passes from DRIP to RECOVER (R80). -/
def Part.leaveDrip (p : Part) (c : CoilId) : Part :=
  let p1 := (p.setPhase c .recover id).updCoil c (fun x => { x with slot := false })
  ((p1.notify .plant (.coolResume c)).evalHoldOf c).slotPass

/-- A coil goes from DEFROST to DRIP by a termination or an overrun, and at once to RECOVER when its drip time is 0.
An overrun raises its alarm before DEFROST STOP is queued (R78, R79). -/
def Part.enterDrip (p : Part) (c : CoilId) (stop : Stop) : Part :=
  let p1 := (p.setPhase c .drip (fun x => { x with lastStop := some stop })).evalHoldOf c
  let p2 := if stop = .overrun then p1.raiseEdge .defrostOverrun c.val else p1
  let p3 := p2.notify .plant (.defrostStop c stop)
  if (p3.coilSet c).drip = 0 then p3.leaveDrip c else p3

/-- A coil enters COOLING from RECOVER or OFF (R81, R83). -/
def Part.enterCooling (p : Part) (c : CoilId) : Part :=
  ((p.setPhase c .cooling id).applyStagedInterval c).evalHoldOf c

/-! ### The end of a move, recall and abort (R128, R130 to R132) -/

/-- A move leaves the queue: its pallet's live move becomes absent (R107), and its conditions end (R136). -/
def Part.endMove (p : Part) (t : Tag) : Part :=
  ((p.dropMove t).updPallet t (fun x => { x with live := false })).examineMove t

/-- What a move held is given back: its lanes, each handed to the door block, and its reservation (R128, R131,
R132). DESIGN CHOICE: of two lanes, the source door's is emptied first, where the rules give no order (log entry
33). -/
def Part.freeHoldings (p : Part) (m : Move) : Part :=
  (m.lanes.foldl Part.freeLane p).endReservation m.reservation

/-- The truck count falls by one. -/
def Part.endTruck (p : Part) : Part := { p with trucks := p.trucks - 1 }

/-- An abort up to its notice (R132 steps 1 to 5). -/
def Part.abortCore (p : Part) (m : Move) (reason : AbortReason) : Part :=
  let p1 := p.freeHoldings m
  let p2 := if m.inFlight then p1.endTruck else p1
  let p3 := p2.endMove m.tag
  p3.notify .floor (.moveAborted m.tag reason m.state ((p3.pallet? m.tag).map (·.loc)))

/-- An abort with its quiet checks; the release pass is its caller's (R132). -/
def Part.abort (p : Part) (m : Move) (reason : AbortReason) : Part := (p.abortCore m reason).checkMoveRooms m

/-- A pallet of this tag is in breach. -/
def Part.breachedTag (p : Part) (t : Tag) : Bool :=
  match p.pallet? t with
  | some x => x.breached
  | none => false

/-- A move as its recall leaves it (R128 steps 1, 2, 3 and 5). -/
def Move.recalled (m : Move) (now : Nat) : Move :=
  { m with state := .queued, stateStamp := now, pickSeconds := 0, lanes := [], reservation := none,
           recalls := satSucc Config.countMax m.recalls }

/-- A recall, with the abort of a breached pallet's move and the quiet checks; the release pass is its caller's
(R128). -/
def Part.recall (p : Part) (m : Move) (reason : RecallReason) : Part :=
  let back := m.recalled p.now
  let p1 := ((p.updMove m.tag (fun _ => back)).freeHoldings m).endTruck
  let p2 := (p1.notify .floor (.moveRecalled m.tag reason back.recalls)).examineMove m.tag
  let p3 := if p2.breachedTag m.tag && p2.offQuarantine m.dest then p2.abortCore back .breach else p2
  p3.checkMoveRooms m

end Sys2Proof.Machine
end

