-- ==== Sys2Proof/Machine/Operands.lean ====
section
/-! DEFINITION. The operand forms: what a field of a request's body names (R183), and what the items of a setting
request set, with the range of each setting (R184 and the settings tables of 01, 02, 04 to 08). A field whose value
its kind does not allow reads as none, and the request's own order of checks answers it. -/

namespace Sys2Proof.Machine

/-! ### Object numbers and enumerations -/

/-- A room number carried as an object. -/
def room? (b : Byte) : Option RoomId := if h : b.toNat < 8 then some ⟨b.toNat, h⟩ else none

/-- A door number carried as an object. -/
def door? (b : Byte) : Option DoorId := if h : b.toNat < 16 then some ⟨b.toNat, h⟩ else none

/-- A coil number carried as an object. -/
def coil? (b : Byte) : Option CoilId := if h : b.toNat < 12 then some ⟨b.toNat, h⟩ else none

/-- A class (R183). -/
def class? (b : Byte) : Option PClass :=
  match b.toNat with
  | 0 => some .deep
  | 1 => some .frozen
  | 2 => some .chilled
  | 3 => some .cool
  | _ => none

/-- A settings group (R182). -/
def group? (b : Byte) : Option Group :=
  match b.toNat with
  | 0 => some .room
  | 1 => some .door
  | 2 => some .coil
  | 3 => some .plant
  | 4 => some .floor
  | 5 => some .cls
  | 6 => some .route
  | _ => none

/-- A route kind, 1..13 (08). -/
def kind? (b : Byte) : Option Kind :=
  match b.toNat with
  | 1 => some .doorOpenLong
  | 2 => some .doorSealLost
  | 3 => some .doorForced
  | 4 => some .roomOverTemp
  | 5 => some .roomSensorStale
  | 6 => some .roomExposure
  | 7 => some .defrostOverrun
  | 8 => some .recoveryFail
  | 9 => some .defrostDeferred
  | 10 => some .defrostBlocked
  | 11 => some .palletBreach
  | 12 => some .transitLong
  | 13 => some .moveStalled
  | _ => none

/-- A two-valued field: 0 for the first value, 1 for the second (R182, Request bodies). -/
def flag? (b : Byte) : Option Bool :=
  match b.toNat with
  | 0 => some false
  | 1 => some true
  | _ => none

/-- A location field (R183). The number of a TRANSIT is 0 (log entry 13). -/
def loc? (x : RawLoc) : Option Loc :=
  match x.kind.toNat with
  | 0 => (room? x.num).map .room
  | 1 => (door? x.num).map .trailer
  | 2 => if x.num = 0#8 then some .transit else none
  | _ => none

/-- A reading: a value, or the FAULT marker, whose value field is not read (R8, R182). -/
def reading? (kind : Byte) (value : Word16) : Option Sample :=
  match kind.toNat with
  | 0 => some (.value value.toInt)
  | 1 => some .fault
  | _ => none

/-- A profile segment: bit 7 the sign, bit 6 zero, bits 0..5 the magnitude (R183). -/
def segment? (b : Byte) : Option Int :=
  if b.getLsbD 6 then none
  else if b.getLsbD 7 then some (-((b.toNat % 64 : Nat) : Int))
  else some ((b.toNat % 64 : Nat) : Int)

/-- Segment bytes in order: none where one of them is no segment. -/
def segmentList? : List Byte → Option (List Int)
  | [] => some []
  | b :: rest =>
    match segment? b, segmentList? rest with
    | some v, some vs => some (v :: vs)
    | _, _ => none

/-- The eight segments of a profile (R27). -/
def segments? (bs : List Byte) : Option (Vector Int 8) :=
  match segmentList? bs with
  | some [a, b, c, d, e, f, g, h] => some #v[a, b, c, d, e, f, g, h]
  | _ => none

/-! ### Ranges of setting values -/

/-- A whole number of a range, as a count. -/
def natIn (lo hi : Nat) (v : Int) : Option Nat :=
  if (lo : Int) ≤ v ∧ v ≤ (hi : Int) then some v.toNat else none

/-- A signed number of a range. -/
def intIn (lo hi : Int) (v : Int) : Option Int := if lo ≤ v ∧ v ≤ hi then some v else none

/-- 0, or a whole number of a range. -/
def zeroOr (lo hi : Nat) (v : Int) : Option Nat := if v = 0 then some 0 else natIn lo hi v

/-- One of the values of an enumeration, numbered from 0 (R183). -/
def pick {α : Type} (xs : List α) (v : Int) : Option α := if 0 ≤ v then xs[v.toNat]? else none

/-- A room number, or none sent as −1 (R184). -/
def roomOrNone (v : Int) : Option (Option RoomId) :=
  if v = -1 then some none
  else if h : 0 ≤ v ∧ v < 8 then some (some ⟨v.toNat, by omega⟩) else none

/-! ### The items of a setting request (R184) -/

/-- What the settings of a group become by one item: none where its number is not one of the group's or its value is
out of the setting's range. -/
abbrev ItemRule (σ : Type) := Nat → Int → Option (σ → σ)

/-- The ROOM group (R6). -/
def roomItem : ItemRule RoomSettings
  | 1, v => (pick [Role.store, .dockHall] v).map fun a s => { s with role := a }
  | 2, v => (pick [PClass.deep, .frozen, .chilled, .cool] v).map fun a s => { s with cls := a }
  | 3, v => (intIn (-500) 500 v).map fun a s => { s with alarmLimit := a }
  | 4, v => (intIn (-500) 500 v).map fun a s => { s with recoverLimit := a }
  | 5, v => (natIn 1 16 v).map fun a s => { s with filterWeight := a }
  | 6, v => (intIn (-50) 50 v).map fun a s => { s with sampleOffset := a }
  | 7, v => (natIn 30 1800 v).map fun a s => { s with staleLimit := a }
  | 8, v => (natIn 0 100 v).map fun a s => { s with staleBias := a }
  | 9, v => (natIn 0 1800 v).map fun a s => { s with qualify := a }
  | 10, v => (natIn 0 8 v).map fun a s => { s with doorBudget := a }
  | 11, v => (natIn 0 4000 v).map fun a s => { s with capacity := a }
  | 12, v => (natIn 1 9999999 v).map fun a s => { s with exposureBudget := a }
  | _, _ => none

/-- The DOOR group (R27). -/
def doorItem : ItemRule DoorSettings
  | 1, v => (roomOrNone v).map fun a s => { s with innerRoom := a }
  | 2, v => (natIn 30 3600 v).map fun a s => { s with openLimit := a }
  | 3, v => (natIn 1 60 v).map fun a s => { s with sealQualify := a }
  | 4, v => (pick [SealMode.normal, .latched] v).map fun a s => { s with sealMode := a }
  | 5, v => (pick [false, true] v).map fun a s => { s with autoClose := a }
  | _, _ => none

/-- The COIL group (R66). -/
def coilItem : ItemRule CoilSettings
  | 1, v => (roomOrNone v).map fun a s => { s with room := a }
  | 2, v => (pick [GroupRole.alone, .lead, .follow] v).map fun a s => { s with role := a }
  | 3, v => (zeroOr 30 2880 v).map fun a s => { s with interval := a }
  | 4, v => (natIn 5 90 v).map fun a s => { s with defrostMax := a }
  | 5, v => (natIn 0 20 v).map fun a s => { s with drip := a }
  | 6, v => (natIn 5 120 v).map fun a s => { s with recoverTime := a }
  | _, _ => none

/-- The PLANT group (R94). -/
def plantItem : ItemRule PlantSettings
  | 1, v => (natIn 1 4 v).map fun a s => { s with slotLimit := a }
  | 2, v => (natIn 0 1439 v).map fun a s => { s with windowStart := a }
  | 3, v => (natIn 0 1439 v).map fun a s => { s with windowEnd := a }
  | 4, v => (zeroOr 10 600 v).map fun a s => { s with deferLimit := a }
  | 5, v => (zeroOr 30 1440 v).map fun a s => { s with forceLimit := a }
  | 6, v => (zeroOr 5 120 v).map fun a s => { s with armLimit := a }
  | _, _ => none

/-- The FLOOR group (R101, R137). -/
def floorItem : ItemRule FloorSettings
  | 1, v => (roomOrNone v).map fun a s => { s with transitRoom := a }
  | 2, v => (roomOrNone v).map fun a s => { s with quarantineRoom := a }
  | 3, v => (intIn (-100) 100 v).map fun a s => { s with transitOffset := a }
  | 4, v => (natIn 1 32 v).map fun a s => { s with truckLimit := a }
  | 5, v => (natIn 1 8 v).map fun a s => { s with share := a }
  | 6, v => (natIn 30 1800 v).map fun a s => { s with pickLimit := a }
  | 7, v => (natIn 60 3600 v).map fun a s => { s with transitLimit := a }
  | 8, v => (natIn 60 7200 v).map fun a s => { s with stallLimit := a }
  | _, _ => none

/-- The CLASS group (R100). -/
def classItem : ItemRule ClassRow
  | 1, v => (intIn (-500) 500 v).map fun a s => { s with limit := a }
  | 2, v => (natIn 1 9999999 v).map fun a s => { s with budget := a }
  | _, _ => none

/-- The ROUTE group, for a level kind or an edge kind: an edge kind takes no report mode of LEVEL (R143). -/
def routeItem (isLevel : Bool) : ItemRule Route
  | 1, v => (pick [true, false] v).map fun a s => { s with masked := a }
  | 2, v => (pick (if isLevel then [some ReportMode.level, some .edge] else [none, some .edge]) v).bind
      fun a => a.map fun m s => { s with mode := m }
  | 3, v => (pick [Link.plant, .dock, .floor] v).map fun a s => { s with ack := a }
  | 4, v => (natIn 0 7 v).map fun a s => { s with copies := BitVec.ofNat 3 a }
  | 5, v => (natIn 1 255 v).map fun a s => { s with code := a }
  | _, _ => none

/-- No setting number is named twice (R184). -/
def distinctItems : List Item → Bool
  | [] => true
  | i :: rest => !rest.any (fun j => j.num == i.num) && distinctItems rest

/-- Every item applied in turn; none where one is refused. -/
def applyItems {σ : Type} (rule : ItemRule σ) : List Item → σ → Option σ
  | [], s => some s
  | i :: rest, s =>
    match rule i.num.toNat i.value.toInt with
    | some f => applyItems rule rest (f s)
    | none => none

/-- The settings a request's items make of the held ones: none at the range check's BAD_VALUE (R174 step 5, R184). -/
def newSettings {σ : Type} (rule : ItemRule σ) (items : List Item) (held : σ) : Option σ :=
  if distinctItems items then applyItems rule items held else none

/-- A request carries a setting (R184). -/
def carries (items : List Item) (n : Nat) : Bool := items.any (fun i => i.num.toNat == n)

/-- The link that may set a room setting in RUN: the dock link the door budget, the floor link the capacity, the plant
link every other (R6, R62, R166); none for a number that is not one of the group's, which the link check passes over
(R184). -/
def roomSettingLink (n : Nat) : Option Link :=
  if n = 10 then some .dock
  else if n = 11 then some .floor
  else if 1 ≤ n ∧ n ≤ 12 then some .plant
  else none

/-- A link may set every room setting a request carries (R6, R166). -/
def maySetRoom (l : Link) (items : List Item) : Bool :=
  items.all fun i =>
    match roomSettingLink i.num.toNat with
    | some x => x == l
    | none => true

end Sys2Proof.Machine
end

