-- ==== Sys2Proof/Machine/Wire.lean ====
section
/-! DEFINITION. What the part sends, as bytes (R182, R183): the encodings of its values, the bodies of the notices,
the answer header, and the read records. -/

namespace Sys2Proof.Machine

/-! ### Field encodings (R183) -/

/-- An unsigned field of one, two or four bytes. -/
def u8 (n : Nat) : List Byte := [BitVec.ofNat 8 n]
def u16 (n : Nat) : List Byte := bytes16 (BitVec.ofNat 16 n)
def u32 (n : Nat) : List Byte := bytes32 (BitVec.ofNat 32 n)

/-- A signed field of two or four bytes. -/
def i16 (v : Int) : List Byte := bytes16 (BitVec.ofInt 16 v)
def i32 (v : Int) : List Byte := bytes32 (BitVec.ofInt 32 v)

/-- A flag as a byte, and several as the bits of one byte. -/
def flagByte (b : Bool) : List Byte := u8 (if b then 1 else 0)
def bitsByte (bs : List Bool) : List Byte := u8 (bitsNat bs)

/-- A number or none: 0xFF. -/
def orNone : Option Nat → List Byte
  | some n => u8 n
  | none => u8 0xFF

/-- A value whose presence is shown elsewhere, sent as 0 when absent (R182, Read records). -/
def i16OrZero (v : Option Int) : List Byte := i16 (v.getD 0)
def u32OrZero (v : Option Nat) : List Byte := u32 (v.getD 0)

def roleCode : Role → Nat
  | .store => 0
  | .dockHall => 1

def doorStateCode : DoorState → Nat
  | .vacant => 0
  | .docked => 1
  | .sealed => 2
  | .waiting => 3
  | .opened => 4
  | .breach => 5
  | .service => 6

def phaseCode : Phase → Nat
  | .cooling => 0
  | .due => 1
  | .armed => 2
  | .defrost => 3
  | .drip => 4
  | .recover => 5
  | .off => 6

def groupRoleCode : GroupRole → Nat
  | .alone => 0
  | .lead => 1
  | .follow => 2

/-- The reason of DEFROST STOP; READ COIL's last stop is one more, 0 being absent. -/
def stopCode : Stop → Nat
  | .terminated => 0
  | .overrun => 1
  | .restart => 2

/-- The breach cause of READ DOOR, 0 being absent. -/
def causeCode : Option Cause → Nat
  | none => 0
  | some .sealLoss => 1
  | some .forced => 2
  | some .trailer => 3

/-- The reason of CLOSE ORDER; READ DOOR's close order owed is one more, 0 being none. -/
def closeReasonCode : CloseReason → Nat
  | .openLong => 0
  | .defrost => 1

def dropReasonCode : DropReason → Nat
  | .restraint => 0
  | .sealLost => 1
  | .trailer => 2

def moveStateCode : MoveState → Nat
  | .queued => 0
  | .released => 1
  | .picked => 2

def directionCode : Direction → Nat
  | .inbound => 0
  | .other => 1

def recallReasonCode : RecallReason → Nat
  | .timeout => 0
  | .doorClosed => 1

def abortReasonCode : AbortReason → Nat
  | .trailerGone => 0
  | .breach => 1

/-- A condition now: false, true or absent (R182). -/
def condCode : Option Bool → Nat
  | some false => 0
  | some true => 1
  | none => 2

/-- A location, the absent one among them (R183). -/
def locCode : Option Loc → List Byte
  | some (.room r) => u8 0 ++ u8 r.val
  | some (.trailer d) => u8 1 ++ u8 d.val
  | some .transit => u8 2 ++ u8 0
  | none => u8 3 ++ u8 0

/-- A profile segment in signed magnitude (R183). DESIGN CHOICE: 0 is sent as 0x00, however it was set (log entry
37). -/
def segmentByte (v : Int) : List Byte := u8 (if v < 0 then 128 + v.natAbs else v.natAbs)

/-- A room setting value or none as −1 (R184). -/
def roomSetting : Option RoomId → Int
  | some r => (r.val : Int)
  | none => -1

/-- The answer code's byte (R182, The answer header). -/
def answerCodeByte : AnswerCode → Byte
  | .done => 0#8
  | .late => 1#8
  | .tooLate => 2#8
  | .refusedLink => 3#8
  | .refusedMode => 4#8
  | .badValue => 5#8
  | .noSuch => 6#8
  | .exists_ => 7#8
  | .full => 8#8
  | .wrongState => 9#8
  | .wrongPlace => 10#8
  | .locked => 11#8
  | .incomplete => 12#8

/-! ### Frames the part sends -/

/-- A notice's message kind (R182, Message kinds). -/
def Notice.msg : Notice → Byte
  | .defrostStart .. => 0x40#8
  | .defrostStop .. => 0x41#8
  | .coolResume .. => 0x42#8
  | .openPermit .. => 0x43#8
  | .requestDropped .. => 0x44#8
  | .closeOrder .. => 0x45#8
  | .doorClosed .. => 0x46#8
  | .moveGo .. => 0x47#8
  | .moveRecalled .. => 0x48#8
  | .moveHold .. => 0x49#8
  | .moveResume .. => 0x4A#8
  | .moveAborted .. => 0x4B#8
  | .palletsShipped .. => 0x4C#8
  | .alarm .. => 0x4D#8
  | .restarted .. => 0x4E#8

/-- One entry of PALLETS SHIPPED. -/
def Shipped.bytes (x : Shipped) : List Byte := u32 x.tag ++ u32 x.exposure ++ flagByte x.breached

/-- A rise, 0x8000 when absent. -/
def riseCode : Option Int → List Byte
  | some v => i16 v
  | none => bytes16 0x8000#16

/-- A notice's body (R182, Notice bodies). -/
def Notice.body : Notice → List Byte
  | .defrostStart c r m => u8 c.val ++ orNone (r.map (·.val)) ++ u8 m
  | .defrostStop c s => u8 c.val ++ u8 (stopCode s)
  | .coolResume c => u8 c.val
  | .openPermit d r => u8 d.val ++ orNone (r.map (·.val))
  | .requestDropped d x => u8 d.val ++ u8 (dropReasonCode x)
  | .closeOrder d x => u8 d.val ++ u8 (closeReasonCode x)
  | .doorClosed d forced dur rise => u8 d.val ++ flagByte forced ++ u32 dur ++ riseCode rise
  | .moveGo t s e => u32 t ++ locCode (some s) ++ locCode (some e)
  | .moveRecalled t x n => u32 t ++ u8 (recallReasonCode x) ++ u8 n
  | .moveHold t d => u32 t ++ u8 d.val
  | .moveResume t d => u32 t ++ u8 d.val
  | .moveAborted t x st l => u32 t ++ u8 (abortReasonCode x) ++ u8 (moveStateCode st) ++ locCode l
  | .palletsShipped d es => u8 d.val ++ u8 es.length ++ es.flatMap Shipped.bytes
  | .alarm k code o n cond copy day sec =>
      u8 (kindNumber k) ++ u8 code ++ u32 o ++ u8 n ++ u8 (condCode cond) ++ flagByte copy ++ u16 day ++ u32 sec
  | .restarted l day sec => u8 (linkIndex l).val ++ u16 day ++ u32 sec

/-- A notice as it goes on the line, with frame tag 0 (R168, R182). -/
def Notice.frame (n : Notice) : List Byte := frameBytes kindNotice n.msg 0#8 n.body

/-- An answer's body: code, flags and result (R164, R182). -/
def Answer.body (a : Answer) : List Byte := answerCodeByte a.code :: a.flags :: a.result

/-- An answer as it goes on the line (R163, R182). -/
def Answer.frame (a : Answer) : List Byte := frameBytes kindAnswer a.msg a.ft a.body

/-! ### Read records (R182, Read records) -/

/-- READ ROOM (R24). -/
def roomRecord (p : Part) (r : RoomId) : List Byte :=
  let x := p.room r
  let kindValue : Nat × Int := match x.last with
    | .absent => (0, 0)
    | .fault => (1, 0)
    | .value v => (2, v)
  u8 (roleCode (p.roomSet r).role) ++ u8 (classIndex (p.roomSet r).cls).val ++ i16 x.f ++
  bitsByte [x.seeded, x.stale, x.declared, x.reached, x.hold, x.clamped] ++
  u8 kindValue.1 ++ i16 kindValue.2 ++ u16 x.staleCount ++ u16 x.qualifyCount ++ u32 x.exposure ++
  u16 x.occupancy ++ u8 x.reservations ++ u8 x.openDoors ++ u8 x.granted ++
  u8 x.queue.length ++ x.queue.flatMap (fun d => u8 d.val)

/-- READ DOOR (R51). -/
def doorRecord (p : Part) (d : DoorId) : List Byte :=
  let x := p.door d
  let last : List Byte := match x.lastOpen with
    | none => u8 0 ++ u32 0 ++ i16 0
    | some ⟨dur, none⟩ => u8 1 ++ u32 dur ++ i16 0
    | some ⟨dur, some rise⟩ => u8 2 ++ u32 dur ++ i16 rise
  u8 (doorStateCode x.state) ++ u8 (causeCode x.cause) ++
  bitsByte [x.trailer, x.reading.isSome, x.engaged, x.rawSeal == .good, x.qualSeal == .good, x.isOpen, x.openLong,
    x.captured.isSome] ++
  i16OrZero x.reading ++ u8 x.sealCount ++ u32 (if x.openState then x.openSeconds p.now else 0) ++
  i16OrZero x.captured ++
  u8 (match x.owed with
    | none => 0
    | some z => closeReasonCode z + 1) ++
  flagByte x.sent ++ u32OrZero x.lane ++ last

/-- READ COIL (R85). -/
def coilRecord (p : Part) (c : CoilId) : List Byte :=
  let x := p.coil c
  let y := p.coilSet c
  orNone (y.room.map (·.val)) ++ u8 (groupRoleCode y.role) ++ u8 (phaseCode x.phase) ++ flagByte x.slot ++
  u8 (match x.lastStop with
    | none => 0
    | some z => stopCode z + 1) ++
  u16 x.phaseMinutes ++ u16 x.waitMinutes ++ u16 x.armMinutes ++ u32OrZero x.dueStamp ++
  bitsByte [x.dueStamp.isSome, x.stagedInterval.isSome, x.stagedMax.isSome] ++
  u16 (x.stagedInterval.getD 0) ++ u8 (x.stagedMax.getD 0) ++ u16 y.interval ++ u8 y.defrostMax

/-- READ PALLET (R115). -/
def palletRecord (p : Part) (x : Pallet) : List Byte :=
  u32 x.tag ++ u8 (classIndex x.cls).val ++ locCode (some x.loc) ++ u32 x.exposure ++ u32 x.budget ++
  bitsByte [x.breached, x.live, x.lastTemp.isSome] ++ u32 (p.now - x.stamp) ++ i16OrZero x.lastTemp

/-- A move record of READ MOVES (R139). -/
def moveRecord (p : Part) (m : Move) : List Byte :=
  u32 m.tag ++ locCode (some m.source) ++ locCode (some m.dest) ++ u8 (directionCode m.direction) ++
  u8 (moveStateCode m.state) ++ u32 (p.now - m.enqueueStamp) ++ u32 (p.now - m.stateStamp) ++ u16 m.pickSeconds ++
  orNone (m.lanes[0]?.map (·.val)) ++ orNone (m.lanes[1]?.map (·.val)) ++ orNone (m.reservation.map (·.val)) ++
  u8 m.recalls

/-- An alarm record of READ ALARMS (R156). -/
def alarmRecord (p : Part) (a : Alarm) : List Byte :=
  u8 (kindNumber a.kind) ++ u8 (p.route a.kind).code ++ u8 (linkIndex (p.route a.kind).ack).val ++ u32 a.object ++
  u32 (p.now - a.stamp) ++ u8 a.repeats ++ u8 (condCode a.cond)

/-- A page: the total, the starting index as carried, the number of records carried, and those records (R171). -/
def page {α : Type} (xs : List α) (index : Nat) (record : α → List Byte) : List Byte :=
  let here := (xs.drop index).take Config.pageSize
  u8 xs.length ++ u8 index ++ u8 here.length ++ here.flatMap record

/-- The direction run's direction, 0 being none (R182). -/
def runDirectionCode : Option Direction → Nat
  | none => 0
  | some .inbound => 1
  | some .other => 2

/-- The locks in group order. -/
def lockBits (p : Part) : List Bool := p.store.locks.toList

/-- READ STATUS (R172). -/
def statusRecord (p : Part) (l : Link) : List Byte :=
  bitsByte [p.running, (p.link l).resync, p.listFull] ++ u8 p.alarms.length ++ u32 p.now ++ u16 p.time.day ++
  u32 p.time.second ++ u8 (p.link l).notices.length ++ u16 p.pallets.length ++ u8 p.moves.length ++ u8 p.trucks ++
  u8 p.store.floor.truckLimit ++ u8 (runDirectionCode p.dirRun.dir) ++ u8 p.dirRun.len ++
  u8 p.store.plant.slotLimit ++ u8 p.slotsHeld ++ bitsByte (lockBits p) ++ u8 p.due.length ++
  p.due.flatMap (fun c => u8 c.val)

/-- READ CHANGES (R155). -/
def changesRecord (c : ChangeSet) : List Byte := u16 c.doors.toNat ++ u8 c.rooms.toNat ++ u16 c.coils.toNat

/-! ### Settings as READ SETTINGS gives them (R176, R182) -/

def roleSetting : Role → Int
  | .store => 0
  | .dockHall => 1

def boolSetting (b : Bool) : Int := if b then 1 else 0

def roomValues (x : RoomSettings) : List Int :=
  [roleSetting x.role, (classIndex x.cls).val, x.alarmLimit, x.recoverLimit, x.filterWeight, x.sampleOffset,
   x.staleLimit, x.staleBias, x.qualify, x.doorBudget, x.capacity, x.exposureBudget]

def doorValues (x : DoorSettings) : List Int :=
  [roomSetting x.innerRoom, x.openLimit, x.sealQualify, boolSetting (x.sealMode == .latched), boolSetting x.autoClose]

def coilValues (x : CoilSettings) : List Int :=
  [roomSetting x.room, groupRoleCode x.role, x.interval, x.defrostMax, x.drip, x.recoverTime]

def plantValues (x : PlantSettings) : List Int :=
  [x.slotLimit, x.windowStart, x.windowEnd, x.deferLimit, x.forceLimit, x.armLimit]

def floorValues (x : FloorSettings) : List Int :=
  [roomSetting x.transitRoom, roomSetting x.quarantineRoom, x.transitOffset, x.truckLimit, x.share, x.pickLimit,
   x.transitLimit, x.stallLimit]

def classValues (x : ClassRow) : List Int := [x.limit, x.budget]

def routeValues (x : Route) : List Int :=
  [boolSetting (!x.masked), boolSetting (x.mode == .edge), (linkIndex x.ack).val, x.copies.toNat, x.code]

/-- Four-byte values in the order of their setting numbers. -/
def valueBytes (vs : List Int) : List Byte := vs.flatMap i32

/-- A door's settings: the five values, the profile span and the eight segment bytes (R182). -/
def doorSettingBytes (x : DoorSettings) : List Byte :=
  valueBytes (doorValues x) ++ u16 x.span ++ x.segments.toList.flatMap segmentByte

end Sys2Proof.Machine
end

