-- ==== Sys2Proof/Machine/Requests.lean ====
section
/-! DEFINITION. Taking a request (R163 to R165): the order of its checks, its one answer with the flags fixed at the
end of the taking, and the send side of each link (R168). -/

namespace Sys2Proof.Machine

/-! ### Replies and checks -/

/-- What a request's taking answers: the code, and the result that follows the header (R164). -/
structure Reply where
  code   : AnswerCode
  result : List Byte
  deriving DecidableEq, Repr

/-- A code with nothing after the header. -/
def Reply.plain (c : AnswerCode) : Reply := { code := c, result := [] }

/-- DONE with a result. -/
def Reply.give (result : List Byte) : Reply := { code := .done, result := result }

/-- The first check that fails gives the answer (R165). -/
def firstFail : List (Bool × AnswerCode) → Option AnswerCode
  | [] => none
  | (failed, c) :: rest => if failed then some c else firstFail rest

/-- A request refused by its first failing check changes nothing; otherwise it is taken. -/
def guarded (p : Part) (checks : List (Bool × AnswerCode)) (go : Part × Reply) : Part × Reply :=
  match firstFail checks with
  | some c => (p, .plain c)
  | none => go

/-- A refusal: nothing changes (R165). -/
def refuse (p : Part) (c : AnswerCode) : Part × Reply := (p, .plain c)

/-- A taken request whose rule gives no result. -/
def done (p : Part) : Part × Reply := (p, .plain .done)

/-- The mode and link checks of a runtime request, taken in RUN from one link (R166, R167). -/
def runtime (p : Part) (l owner : Link) : List (Bool × AnswerCode) :=
  [(!p.running, .refusedMode), (l != owner, .refusedLink)]

/-- The link check of a setting request taken from any link in SETUP and from one link in RUN (R167, R174). -/
def settingLink (p : Part) (l owner : Link) : Bool × AnswerCode := (p.running && l != owner, .refusedLink)

/-! ### The send side (R168) -/

/-- A link whose line is free begins the next frame: the oldest answer, or else the oldest notice (R168). -/
def LinkState.start (k : LinkState) : LinkState :=
  match k.sending with
  | some _ => k
  | none =>
    match k.answers, k.notices with
    | a :: rest, _ => { k with sending := some a.frame, answers := rest }
    | [], n :: rest => { k with sending := some n.frame, notices := rest }
    | [], [] => k

/-- Every link whose line is free begins its next frame; so a taking ends (log entry 6). -/
def Part.startSending (p : Part) : Part :=
  ((p.updLink .plant LinkState.start).updLink .dock LinkState.start).updLink .floor LinkState.start

/-! ### One taking, one answer (R163) -/

/-- An answer joins its link's answer queue (R163). -/
def Part.pushAnswer (p : Part) (l : Link) (a : Answer) : Part :=
  p.updLink l (fun k => { k with answers := k.answers ++ [a] })

/-- The answer to a request of this message kind and frame tag, its flags as the part stands (R164). -/
def Part.answer (p : Part) (l : Link) (msg ft : Byte) (r : Reply) : Part :=
  p.pushAnswer l { msg := msg, ft := ft, code := r.code, flags := p.flags l, result := r.result }

/-- A link's answer queue has no place: a request that completes is discarded (R163). -/
def Part.answersFull (p : Part) (l : Link) : Bool := Config.answerCapacity ≤ (p.link l).answers.length

/-- A request is taken whole and answered once, and the free lines begin their next frames. A request that meets 8
waiting answers is not taken, and nothing changes (R163). -/
def Part.take (p : Part) (l : Link) (msg ft : Byte) (act : Part → Part × Reply) : Part :=
  if p.answersFull l then p
  else ((act p).1.answer l msg ft (act p).2).startSending

/-- An event that is no request: the part's own change, after which the free lines begin their next frames. -/
def Part.event (p : Part) (act : Part → Part) : Part := (act p).startSending

end Sys2Proof.Machine
end

