-- ==== Sys2Proof/Machine/Coils.lean ====
section
/-! DEFINITION. The coil block (04) and the slot arbiter (05): the step of a minute event, and the commands that are
about a coil. -/

namespace Sys2Proof.Machine

/-! ### Compares of a phase (R69) -/

/-- COOLING against the cooling interval; an interval of 0 never fires (R69, R70). -/
def Part.coolingCompare (p : Part) (c : CoilId) : Part :=
  if (p.coil c).phase = .cooling ∧ (p.coilSet c).interval ≠ 0 ∧ (p.coilSet c).interval ≤ (p.coil c).phaseMinutes then
    p.enterDue c
  else p

/-- DEFROST against the defrost max: an overrun (R78). -/
def Part.defrostCompare (p : Part) (c : CoilId) : Part :=
  if (p.coil c).phase = .defrost ∧ (p.coilSet c).defrostMax ≤ (p.coil c).phaseMinutes then p.enterDrip c .overrun
  else p

/-- DRIP against the drip time (R80). -/
def Part.dripCompare (p : Part) (c : CoilId) : Part :=
  if (p.coil c).phase = .drip ∧ (p.coilSet c).drip ≤ (p.coil c).phaseMinutes then p.leaveDrip c else p

/-- RECOVER against the recover time: a failed recovery (R82). -/
def Part.recoverCompare (p : Part) (c : CoilId) : Part :=
  if (p.coil c).phase = .recover ∧ (p.coilSet c).recoverTime ≤ (p.coil c).phaseMinutes then
    (p.raiseEdge .recoveryFail c.val).enterCooling c
  else p

/-! ### The minute event (R69, R90) -/

/-- A phase minute more. -/
def Part.phaseMinute (p : Part) (c : CoilId) : Part :=
  p.updCoil c (fun x => { x with phaseMinutes := satSucc Config.counterMax x.phaseMinutes })

/-- A coil's one step at a minute event, by the phase it holds at its turn (R69; log entry 5). -/
def Part.coilMinute (p : Part) (c : CoilId) : Part :=
  match (p.coil c).phase with
  | .cooling => (p.phaseMinute c).coolingCompare c
  | .due => p.updCoil c (fun x => { x with waitMinutes := satSucc Config.counterMax x.waitMinutes })
  | .armed => p.updCoil c (fun x =>
      { x with waitMinutes := satSucc Config.counterMax x.waitMinutes,
               armMinutes := satSucc Config.counterMax x.armMinutes })
  | .defrost => (p.phaseMinute c).defrostCompare c
  | .drip => (p.phaseMinute c).dripCompare c
  | .recover => (p.phaseMinute c).recoverCompare c
  | .off => p

/-- DEFROST DEFERRED of every coil is examined (R96). -/
def Part.examineDeferred (p : Part) : Part := allCoils.foldl (fun q c => q.examine .defrostDeferred c.val) p

/-- DEFROST BLOCKED of every coil is examined (R97). -/
def Part.examineBlocked (p : Part) : Part := allCoils.foldl (fun q c => q.examine .defrostBlocked c.val) p

/-- The minute event of RUN: every coil's step in coil-number order, the two conditions, and the arbiter's pass (R69,
R90, R96, R97). DESIGN CHOICE: DEFROST DEFERRED of every coil is examined before DEFROST BLOCKED of every coil (log
entry 10). -/
def Part.minuteWork (p : Part) : Part :=
  if p.running then
    (((allCoils.foldl Part.coilMinute p).examineDeferred).examineBlocked).slotPass
  else p

/-! ### The steps that are about a coil, taken by themselves (log entry 3) -/

def Part.coolingInterval (p : Part) (c : CoilId) : Part := if p.running then p.coolingCompare c else p
def Part.defrostOverrun (p : Part) (c : CoilId) : Part := if p.running then p.defrostCompare c else p
def Part.dripEnd (p : Part) (c : CoilId) : Part := if p.running then p.dripCompare c else p
def Part.recoveryFail (p : Part) (c : CoilId) : Part := if p.running then p.recoverCompare c else p
def Part.defrostDeferred (p : Part) (c : CoilId) : Part :=
  if p.running then p.examine .defrostDeferred c.val else p
def Part.defrostBlocked (p : Part) (c : CoilId) : Part :=
  if p.running then p.examine .defrostBlocked c.val else p

/-- DEFROST ENTRY in RUN: an armed coil that finds its room quiet (R76, R77). -/
def Part.defrostEntry (p : Part) (c : CoilId) : Part :=
  if p.running then
    match p.coilRoom c with
    | some r => p.defrostIfQuiet r c
    | none => p
  else p

/-- SLOT GRANT in RUN: one grant of the arbiter's pass (R91). -/
def Part.slotGrant (p : Part) : Part :=
  if p.running then
    match p.slotStep with
    | some q => q
    | none => p
  else p

/-! ### Requests about a coil -/

/-- A runtime request of the plant controller about a coil (R65). -/
def coilRequest (l : Link) (coil : Byte) (act : CoilId → Part → Part × Reply) (p : Part) : Part × Reply :=
  guarded p (runtime p l .plant)
    (match coil? coil with
    | none => refuse p .noSuch
    | some c => act c p)

/-- COIL TERMINATED (R79). -/
def coilTerminatedRequest (l : Link) (coil : Byte) : Part → Part × Reply :=
  coilRequest l coil fun c p =>
    if (p.coil c).phase = .defrost then done (p.enterDrip c .terminated) else refuse p .late

/-- DEMAND DEFROST (R73). -/
def demandDefrostRequest (l : Link) (coil : Byte) : Part → Part × Reply :=
  coilRequest l coil fun c p =>
    match (p.coil c).phase with
    | .cooling => done (p.enterDue c)
    | .due | .armed => done p
    | .defrost | .drip | .recover | .off => refuse p .wrongState

/-- COIL SERVICE (R83). -/
def coilServiceRequest (l : Link) (coil value : Byte) : Part → Part × Reply :=
  coilRequest l coil fun c p =>
    match flag? value with
    | none => refuse p .badValue
    | some true =>
      if (p.coil c).phase = .cooling then done ((p.setPhase c .off id).evalHoldOf c) else refuse p .wrongState
    | some false => if (p.coil c).phase = .off then done (p.enterCooling c) else done p

/-- The values a STAGE COIL TIMING carries, none where one is out of range or where it carries neither; a value whose
presence bit is clear is not read, and a presence byte with another bit set is one its encoding does not define (R71,
R182, R183). -/
def stagedValues (presence : Byte) (interval : Word16) (maximum : Byte) : Option (Option Nat × Option Nat) :=
  if presence = 0#8 ∨ 3 < presence.toNat then none
  else
    let i := if presence.getLsbD 0 then (zeroOr 30 2880 interval.toNat).map some else some none
    let m := if presence.getLsbD 1 then (natIn 5 90 maximum.toNat).map some else some none
    match i, m with
    | some x, some y => some (x, y)
    | _, _ => none

/-- STAGE COIL TIMING: each carried value replaces what was staged (R71). -/
def stageRequest (l : Link) (coil presence : Byte) (interval : Word16) (maximum : Byte) (p : Part) : Part × Reply :=
  guarded p (runtime p l .plant ++ [(p.locked .coil, .locked)])
    (match coil? coil with
    | none => refuse p .noSuch
    | some c =>
      match stagedValues presence interval maximum with
      | none => refuse p .badValue
      | some (i, m) =>
        done (p.updCoil c (fun x =>
          { x with stagedInterval := i.or x.stagedInterval, stagedMax := m.or x.stagedMax })))

/-! ### The meanings -/

/-- COOLING_INTERVAL (R69, R70). -/
def execCoolingInterval (c : CoilId) (s : State) : Host.Outcome State Fault Refusal :=
  .next (s.onPart fun p => p.event (fun q => q.coolingInterval c))

/-- DEFROST_OVERRUN (R78). -/
def execDefrostOverrun (c : CoilId) (s : State) : Host.Outcome State Fault Refusal :=
  .next (s.onPart fun p => p.event (fun q => q.defrostOverrun c))

/-- DRIP_END (R80). -/
def execDripEnd (c : CoilId) (s : State) : Host.Outcome State Fault Refusal :=
  .next (s.onPart fun p => p.event (fun q => q.dripEnd c))

/-- RECOVERY_FAIL (R82). -/
def execRecoveryFail (c : CoilId) (s : State) : Host.Outcome State Fault Refusal :=
  .next (s.onPart fun p => p.event (fun q => q.recoveryFail c))

/-- DEFROST_DEFERRED (R96). -/
def execDefrostDeferred (c : CoilId) (s : State) : Host.Outcome State Fault Refusal :=
  .next (s.onPart fun p => p.event (fun q => q.defrostDeferred c))

/-- DEFROST_BLOCKED (R97). -/
def execDefrostBlocked (c : CoilId) (s : State) : Host.Outcome State Fault Refusal :=
  .next (s.onPart fun p => p.event (fun q => q.defrostBlocked c))

/-- DEFROST_ENTRY (R77). -/
def execDefrostEntry (c : CoilId) (s : State) : Host.Outcome State Fault Refusal :=
  .next (s.onPart fun p => p.event (fun q => q.defrostEntry c))

/-- SLOT_GRANT (R91). -/
def execSlotGrant (s : State) : Host.Outcome State Fault Refusal :=
  .next (s.onPart fun p => p.event Part.slotGrant)

/-- COIL_TERMINATED (R79). -/
def execCoilTerminated (l : Link) (ft coil : Byte) (s : State) : Host.Outcome State Fault Refusal :=
  .next (s.onPart fun p => p.take l 0x02#8 ft (coilTerminatedRequest l coil))

/-- DEMAND_DEFROST (R73). -/
def execDemandDefrost (l : Link) (ft coil : Byte) (s : State) : Host.Outcome State Fault Refusal :=
  .next (s.onPart fun p => p.take l 0x03#8 ft (demandDefrostRequest l coil))

/-- STAGE_COIL_TIMING (R71). -/
def execStageCoilTiming (l : Link) (ft coil presence : Byte) (interval : Word16) (maximum : Byte) (s : State) :
    Host.Outcome State Fault Refusal :=
  .next (s.onPart fun p => p.take l 0x04#8 ft (stageRequest l coil presence interval maximum))

/-- COIL_SERVICE (R83). -/
def execCoilService (l : Link) (ft coil value : Byte) (s : State) : Host.Outcome State Fault Refusal :=
  .next (s.onPart fun p => p.take l 0x05#8 ft (coilServiceRequest l coil value))

end Sys2Proof.Machine
end

