-- ==== Sys2Proof/Machine/Doors.lean ====
section
/-! DEFINITION. The door block (02) and the asking side of door grants (03): the reports of the dock controller, seal
qualification, open timing, openings and closings, and the commands that are about a door. The departure of a trailer
also ships its pallets (R113) and aborts the moves that name it (R135). -/

namespace Sys2Proof.Machine

/-! ### The door queue (R53, R54) -/

/-- A door joins the tail of its inner room's queue (R54). -/
def Part.joinQueue (p : Part) (d : DoorId) : Part :=
  match p.inner d with
  | some r => p.updRoom r (fun x => { x with queue := x.queue ++ [d] })
  | none => p

/-- A door leaves its inner room's queue, and the doors behind it close up (R54). -/
def Part.leaveQueue (p : Part) (d : DoorId) : Part :=
  match p.inner d with
  | some r => p.updRoom r (fun x => { x with queue := x.queue.filter (fun e => e != d) })
  | none => p

/-- A waiting door's request is dropped: it leaves the queue, takes its rest state, and REQUEST DROPPED is queued
(R57). -/
def Part.dropRequest (p : Part) (d : DoorId) (reason : DropReason) : Part :=
  ((p.leaveQueue d).changeDoor d (p.door d).restState).notify .dock (.requestDropped d reason)

/-- The grant pass of a door's inner room. -/
def Part.innerGrantPass (p : Part) (d : DoorId) : Part :=
  match p.inner d with
  | some r => p.grantPass r
  | none => p

/-! ### Seals and restraint (R34 to R37) -/

/-- A breach by the seal can end while the door stays open: cause SEAL, mode NORMAL, the qualified seal GOOD and the
restraint engaged (R37). -/
def Part.mayReturn (p : Part) (d : DoorId) : Bool :=
  (p.door d).state == .breach && (p.door d).cause == some .sealLoss && (p.doorSet d).sealMode == .normal &&
  (p.door d).qualSeal == .good && (p.door d).engaged

/-- What a door does once its restraint or its qualified seal has a new value: a closed state takes its rest state, a
waiting door whose sealed condition fails loses its request, an OPEN door without its seal goes to BREACH, and a
breach by the seal may return to OPEN (R30, R34, R36, R37, R57). -/
def Part.sealFollows (p : Part) (d : DoorId) (reason : DropReason) : Part :=
  match (p.door d).state with
  | .vacant | .docked | .sealed => p.takeRest d
  | .waiting => if (p.door d).restState = .sealed then p else (p.dropRequest d reason).releasePass
  | .opened =>
    if (p.door d).engaged ∧ (p.door d).qualSeal = .good then p else (p.enterBreach d .sealLoss).releasePass
  | .breach => if p.mayReturn d then p.returnOpen d else p
  | .service => p

/-- The qualified seal takes the raw value, the counter is set to 0, and the door follows (R36). -/
def Part.qualifySeal (p : Part) (d : DoorId) : Part :=
  (p.updDoor d (fun x => { x with qualSeal := x.rawSeal, sealCount := 0 })).sealFollows d .sealLost

/-- The compare of the seal counter with the seal qualify time (R36). -/
def Part.sealCompare (p : Part) (d : DoorId) : Part :=
  if (p.door d).state ≠ .service ∧ (p.door d).rawSeal ≠ (p.door d).qualSeal ∧
      (p.doorSet d).sealQualify ≤ (p.door d).sealCount then p.qualifySeal d
  else p

/-- The seal counter at a second event (R36). -/
def Part.sealCount (p : Part) (d : DoorId) : Part :=
  if (p.door d).state ≠ .service ∧ (p.door d).rawSeal ≠ (p.door d).qualSeal then
    p.updDoor d (fun x => { x with sealCount := x.sealCount + 1 })
  else p

/-! ### Openings (R40 to R44) -/

/-- The open-long flag takes a value, and DOOR OPEN LONG follows it (R43, R50). -/
def Part.setOpenLong (p : Part) (d : DoorId) (now : Bool) : Part :=
  if (p.door d).openLong = now then p
  else (p.updDoor d (fun x => { x with openLong := now })).handLevel .doorOpenLong d.val now

/-- Open timing of one door: the open-long flag, and the OPEN LONG order that auto-close owes (R43, R44). -/
def Part.openTiming (p : Part) (d : DoorId) : Part :=
  if (p.door d).openState then
    let long := decide ((p.doorSet d).openLimit ≤ (p.door d).openSeconds p.now)
    let q := p.setOpenLong d long
    if long && (p.doorSet d).autoClose then q.owe .openLong d else q
  else p

/-- A door at a second event: its seal qualification before its open timing (R36). -/
def Part.doorSecond (p : Part) (d : DoorId) : Part := ((p.sealCount d).sealCompare d).openTiming d

/-- A forced opening (R40). The door enters BREACH before DOOR FORCED is raised (R141). -/
def Part.forceOpen (p : Part) (d : DoorId) : Part :=
  let captured := (p.inner d).map fun r => (p.room r).f
  let p1 := if (p.door d).state = .waiting then p.leaveQueue d else p
  let p2 := p1.updDoor d (fun x =>
    { x with isOpen := true, openStart := some p.now, captured := captured, openLong := false, owed := none,
             sent := false })
  let p3 := (p2.enterBreach d .forced).raiseEdge .doorForced d.val
  let p4 := match p.inner d with
    | some r =>
      let q := p3.updRoom r (fun x => { x with openDoors := x.openDoors + 1 })
      if (q.room r).hold then q.owe .defrost d else q
    | none => p3
  p4.releasePass

/-- The rise of an opening: absent when no temperature was captured (R42). -/
def Part.riseOf (p : Part) (d : DoorId) : Option Int :=
  match (p.door d).captured, p.inner d with
  | some t, some r => some ((p.room r).f - t)
  | _, _ => none

/-- A closing up to the room's counts (R41, R42 steps 1 to 5). -/
def Part.endOpening (p : Part) (d : DoorId) : Part :=
  let x := p.door d
  let duration := x.openSeconds p.now
  let p1 := (p.updDoor d (fun y => { y with lastOpen := some ⟨duration, p.riseOf d⟩ })).notify .dock
    (.doorClosed d (!x.byGrant) duration (p.riseOf d))
  let p2 := (p1.setOpenLong d false).updDoor d (fun y =>
    { y with openStart := none, captured := none, owed := none, sent := false, cause := none, isOpen := false })
  let p3 := p2.changeDoor d x.restState
  match p.inner d with
  | some r =>
    p3.updRoom r (fun y => { y with openDoors := y.openDoors - 1,
                                    granted := if x.byGrant then y.granted - 1 else y.granted })
  | none => p3

/-- The RELEASED moves that hold a door's lane (R134). -/
def Part.lanesReleased (p : Part) (d : DoorId) : List Move :=
  p.moves.filter (fun m => m.state == .released && m.lanes.contains d)

/-- A closing with its follow-ons: the recalls, the quiet checks, the room's grant pass, and the release pass (R42). -/
def Part.closeDoor (p : Part) (d : DoorId) : Part :=
  let p1 := p.endOpening d
  let p2 := (p1.lanesReleased d).foldl (fun q m => q.recall m .doorClosed) p1
  let p3 := match p.inner d with
    | some r => (p2.quietCheck r).grantPass r
    | none => p2
  p3.releasePass

/-! ### Trailers (R32, R33, R113, R135) -/

/-- TRAILER ARRIVED at a door that takes it (R32). -/
def Part.trailerArrives (p : Part) (d : DoorId) (reading : Option Int) : Part :=
  let q := p.updDoor d (fun x => { x with trailer := true, reading := reading.map clampTemp })
  if (p.door d).trailer then q else q.takeRest d

/-- Some entries in runs of at most eight, at most n runs (R114). -/
def runsOfEight {α : Type} : Nat → List α → List (List α)
  | 0, _ => []
  | n + 1, xs =>
    if xs.isEmpty then []
    else xs.take Config.shippedPerNotice :: runsOfEight n (xs.drop Config.shippedPerNotice)

/-- What PALLETS SHIPPED reports of a pallet (R114). -/
def Pallet.shipped (x : Pallet) : Shipped := { tag := x.tag, exposure := x.exposure, breached := x.breached }

/-- The pallets at a trailer leave the table as shipped, in table order, reported eight to a notice (R113, R114). -/
def Part.ship (p : Part) (d : DoorId) : Part :=
  let gone := p.pallets.filter (fun x => x.loc == .trailer d)
  let q := { p with pallets := p.pallets.filter (fun x => x.loc != .trailer d) }
  (runsOfEight gone.length (gone.map Pallet.shipped)).foldl (fun r es => r.notify .floor (.palletsShipped d es)) q

/-- The moves a departure aborts: every move that names the trailer, but for a PICKED move on its way elsewhere
(R135). -/
def Part.departing (p : Part) (d : DoorId) : List Move :=
  p.moves.filter (fun m => m.namesTrailer d && !(m.state == .picked && m.dest != .trailer d))

/-- The door's own change at a departure, by its state (R33). No MOVE HOLD is sent (R135). -/
def Part.doorDeparts (p : Part) (d : DoorId) : Part :=
  match (p.door d).state with
  | .vacant | .docked | .sealed => p.changeDoor d (p.door d).restState
  | .waiting => p.dropRequest d .trailer
  | .opened => (p.updDoor d (fun x => { x with cause := some .trailer })).changeDoor d .breach
  | .breach => p.updDoor d (fun x => { x with cause := if x.cause = some .sealLoss then some .trailer else x.cause })
  | .service => p

/-- TRAILER LEFT at a door with a trailer present: the door, the shipping, the aborts, and one release pass (R33,
R113, R135). DESIGN CHOICE: the PALLETS SHIPPED notices are queued before the MOVE ABORTED notices, where R135 allows
either order (log entry 29). DESIGN CHOICE: the door's own change comes first, so that its ALARM of DOOR SEAL LOST or
its REQUEST DROPPED is queued before those notices and before a CLOSE ORDER that an abort frees, where R33 and R135
give no order (log entry 31). -/
def Part.trailerLeaves (p : Part) (d : DoorId) : Part :=
  let p1 := (p.updDoor d (fun x => { x with trailer := false, reading := none })).doorDeparts d
  let p2 := p1.ship d
  let p3 := (p2.departing d).foldl (fun q m => q.abort m .trailerGone) p2
  p3.releasePass

/-! ### Requests about a door -/

/-- A report of the dock controller: its checks, the door, and the refusal of every report at a door in SERVICE
(R26, R31). -/
def doorReport (l : Link) (door : Byte) (act : DoorId → Part → Part × Reply) (p : Part) : Part × Reply :=
  guarded p (runtime p l .dock)
    (match door? door with
    | none => refuse p .noSuch
    | some d => act d p)

/-- A two-valued report: its range, then SERVICE (R26, R31). -/
def valueReport (l : Link) (door value : Byte) (act : DoorId → Bool → Part → Part) (p : Part) : Part × Reply :=
  doorReport l door (fun d p =>
    match flag? value with
    | none => refuse p .badValue
    | some v => if (p.door d).state = .service then refuse p .wrongState else done (act d v p)) p

/-- TRAILER ARRIVED (R29, R32). -/
def trailerArrivedRequest (l : Link) (door : Byte) (reading : Option Word16) : Part → Part × Reply :=
  doorReport l door fun d p =>
    if (p.door d).state = .service ∨ p.inner d = none then refuse p .wrongState
    else done (p.trailerArrives d (reading.map (·.toInt)))

/-- TRAILER LEFT (R33). -/
def trailerLeftRequest (l : Link) (door : Byte) : Part → Part × Reply :=
  doorReport l door fun d p =>
    if (p.door d).state = .service then refuse p .wrongState
    else if (p.door d).trailer then done (p.trailerLeaves d) else done p

/-- RESTRAINT engaged or free (R34). -/
def Part.setRestraint (p : Part) (d : DoorId) (v : Bool) : Part :=
  if (p.door d).engaged = v then p
  else (p.updDoor d (fun x => { x with engaged := v })).sealFollows d .restraint

/-- A seal report's value. -/
def sealOf (good : Bool) : Seal := if good then .good else .lost

/-- SEAL CONDITION (R35). -/
def Part.setRawSeal (p : Part) (d : DoorId) (v : Bool) : Part :=
  if (p.door d).rawSeal = sealOf v then p
  else p.updDoor d (fun x => { x with rawSeal := sealOf v, sealCount := 0 })

/-- DOOR POSITION (R40, R41). -/
def Part.setPosition (p : Part) (d : DoorId) (v : Bool) : Part :=
  if v then
    if (p.door d).openState then p.updDoor d (fun x => { x with isOpen := true }) else p.forceOpen d
  else if (p.door d).openState then p.closeDoor d else p

/-- DOOR SERVICE (R49). -/
def doorServiceRequest (l : Link) (door value : Byte) : Part → Part × Reply :=
  doorReport l door fun d p =>
    match flag? value with
    | none => refuse p .badValue
    | some true =>
      if (p.door d).state = .vacant then
        done ((p.updDoor d (fun x => { x with sealCount := 0 })).changeDoor d .service).releasePass
      else refuse p .wrongState
    | some false =>
      if (p.door d).state = .service then done (p.changeDoor d .vacant).releasePass else done p

/-- OPEN REQUEST: the door joins its room's queue, the grant pass runs, and the answer carries the door's state at the
end of the taking (R55). -/
def openRequestRequest (l : Link) (door : Byte) : Part → Part × Reply :=
  doorReport l door fun d p =>
    if (p.door d).state = .sealed then
      let q := (((p.joinQueue d).changeDoor d .waiting).innerGrantPass d).releasePass
      (q, .give (u8 (doorStateCode (q.door d).state)))
    else refuse p .wrongState

/-- OPEN CANCEL (R56). -/
def openCancelRequest (l : Link) (door : Byte) : Part → Part × Reply :=
  doorReport l door fun d p =>
    match (p.door d).state with
    | .waiting => done ((p.leaveQueue d).changeDoor d .sealed).releasePass
    | .vacant | .docked | .sealed => done p
    | .opened | .breach => refuse p .late
    | .service => refuse p .wrongState

/-! ### The steps that are about a door, taken by themselves (log entry 3) -/

/-- SEAL QUALIFICATION in RUN (R36). -/
def Part.sealQualification (p : Part) (d : DoorId) : Part := if p.running then p.sealCompare d else p

/-- DOOR OPEN LONG in RUN (R43, R44). -/
def Part.doorOpenLong (p : Part) (d : DoorId) : Part := if p.running then p.openTiming d else p

/-- CLOSE ORDER in RUN (R45). -/
def Part.closeOrderStep (p : Part) (d : DoorId) : Part := if p.running then p.sendCloseOrder d else p

/-! ### The meanings -/

/-- SEAL_QUALIFICATION (R36). -/
def execSealQualification (d : DoorId) (s : State) : Host.Outcome State Fault Refusal :=
  .next (s.onPart fun p => p.event (fun q => q.sealQualification d))

/-- DOOR_OPEN_LONG (R43). -/
def execDoorOpenLong (d : DoorId) (s : State) : Host.Outcome State Fault Refusal :=
  .next (s.onPart fun p => p.event (fun q => q.doorOpenLong d))

/-- CLOSE_ORDER (R45). -/
def execCloseOrder (d : DoorId) (s : State) : Host.Outcome State Fault Refusal :=
  .next (s.onPart fun p => p.event (fun q => q.closeOrderStep d))

/-- TRAILER_ARRIVED (R32). -/
def execTrailerArrived (l : Link) (ft door : Byte) (reading : Option Word16) (s : State) :
    Host.Outcome State Fault Refusal :=
  .next (s.onPart fun p => p.take l 0x07#8 ft (trailerArrivedRequest l door reading))

/-- TRAILER_LEFT (R33). -/
def execTrailerLeft (l : Link) (ft door : Byte) (s : State) : Host.Outcome State Fault Refusal :=
  .next (s.onPart fun p => p.take l 0x08#8 ft (trailerLeftRequest l door))

/-- RESTRAINT (R34). -/
def execRestraint (l : Link) (ft door value : Byte) (s : State) : Host.Outcome State Fault Refusal :=
  .next (s.onPart fun p => p.take l 0x09#8 ft (valueReport l door value fun d v q => q.setRestraint d v))

/-- SEAL_CONDITION (R35). -/
def execSealCondition (l : Link) (ft door value : Byte) (s : State) : Host.Outcome State Fault Refusal :=
  .next (s.onPart fun p => p.take l 0x0A#8 ft (valueReport l door value fun d v q => q.setRawSeal d v))

/-- DOOR_POSITION (R40, R41). -/
def execDoorPosition (l : Link) (ft door value : Byte) (s : State) : Host.Outcome State Fault Refusal :=
  .next (s.onPart fun p => p.take l 0x0B#8 ft (valueReport l door value fun d v q => q.setPosition d v))

/-- DOOR_SERVICE (R49). -/
def execDoorService (l : Link) (ft door value : Byte) (s : State) : Host.Outcome State Fault Refusal :=
  .next (s.onPart fun p => p.take l 0x0C#8 ft (doorServiceRequest l door value))

/-- OPEN_REQUEST (R55). -/
def execOpenRequest (l : Link) (ft door : Byte) (s : State) : Host.Outcome State Fault Refusal :=
  .next (s.onPart fun p => p.take l 0x0D#8 ft (openRequestRequest l door))

/-- OPEN_CANCEL (R56). -/
def execOpenCancel (l : Link) (ft door : Byte) (s : State) : Host.Outcome State Fault Refusal :=
  .next (s.onPart fun p => p.take l 0x0E#8 ft (openCancelRequest l door))

end Sys2Proof.Machine
end

