-- ==== Sys2Proof/Machine/Pallets.lean ====
section
/-! DEFINITION. The pallet block (06): registering and removing pallets, location temperature, exposure and breach.
Shipping stands with the departure of a trailer (Doors). -/

namespace Sys2Proof.Machine

/-! ### Location temperature and exposure (R108 to R110) -/

/-- F of a room with its stale bias, 0 where the setting names no room (R109). -/
def Part.airOf (p : Part) (r : Option RoomId) : Int :=
  match r with
  | some r => (p.room r).biased (p.roomSet r)
  | none => 0

/-- The location temperature, clamped after every addition (R109). -/
def Part.locTemp (p : Part) (x : Loc) : Int :=
  match x with
  | .room r => clampTemp (p.airOf (some r))
  | .transit => clampTemp (p.airOf p.store.floor.transitRoom + p.store.floor.transitOffset)
  | .trailer d =>
    let base := match (p.door d).reading with
      | some t => t
      | none => p.airOf (p.inner d)
    clampTemp (base + apronOffset (p.door d) (p.doorSet d) p.now)

/-- A pallet record as an exposure tick's accrual leaves it (R108 steps 1 to 3, R110). -/
def Pallet.accrued (x : Pallet) (t limit : Int) : Pallet :=
  { x with lastTemp := some t, exposure := addExposure x.exposure (excessOver t limit) }

def Part.palletAccrue (p : Part) (x : Pallet) : Part :=
  p.updPallet x.tag (fun y => y.accrued (p.locTemp y.loc) (p.classRow y.cls).limit)

/-! ### Breach (R111, R112) -/

/-- The move of a pallet that breaches: a QUEUED one bound elsewhere than the quarantine room is aborted, with its
quiet checks and its release pass; any other is left (R112, R132). -/
def Part.breachMove (p : Part) (t : Tag) : Part :=
  match p.move? t with
  | some m => if m.state = .queued ∧ p.offQuarantine m.dest = true then (p.abort m .breach).releasePass else p
  | none => p

/-- A pallet is declared in breach (R111). -/
def Part.declareBreach (p : Part) (t : Tag) : Part :=
  ((p.updPallet t (fun x => { x with breached := true })).raiseEdge .palletBreach t).breachMove t

/-- The breach test of a pallet (R108 step 4, R111). -/
def Part.breachCompare (p : Part) (t : Tag) : Part :=
  match p.pallet? t with
  | some x => if x.breached = false ∧ x.budget ≤ x.exposure then p.declareBreach t else p
  | none => p

/-- One pallet at an exposure tick (R108). -/
def Part.palletTick (p : Part) (x : Pallet) : Part := (p.palletAccrue x).breachCompare x.tag

/-- PALLET BREACH in RUN, taken by itself (log entry 3). -/
def Part.palletBreachStep (p : Part) (t : Tag) : Part := if p.running then p.breachCompare t else p

/-! ### Registering and removing (R104 to R106) -/

/-- A location does not fit the pallet to be registered (R104 step 6). -/
def Part.wrongPlaceToRegister (p : Part) (x : Loc) (cls : PClass) : Bool :=
  match x with
  | .transit => true
  | .trailer d => !(p.door d).trailer
  | .room r => !p.accepts r cls false

/-- A room's occupancy changes where the location is a room (R20, R102). -/
def Part.addOccupancy (p : Part) (x : Loc) : Part :=
  match x with
  | .room r => p.updRoom r (fun y => { y with occupancy := y.occupancy + 1 })
  | _ => p

def Part.endOccupancy (p : Part) (x : Loc) : Part :=
  match x with
  | .room r => p.updRoom r (fun y => { y with occupancy := y.occupancy - 1 })
  | _ => p

/-- The record a registration makes (R105). -/
def Part.newPallet (p : Part) (t : Tag) (cls : PClass) (x : Loc) (budget : Option Nat) : Pallet :=
  { tag := t, cls := cls, loc := x, exposure := 0, budget := budget.getD (p.classRow cls).budget, breached := false,
    live := false, stamp := p.now, lastTemp := none }

/-- A registration taken (R105). -/
def Part.register (p : Part) (t : Tag) (cls : PClass) (x : Loc) (budget : Option Nat) : Part :=
  { p with pallets := p.pallets ++ [p.newPallet t cls x budget] }.addOccupancy x

/-- A budget field: absent, or a value of the range (R104). -/
def budget? : Option Word32 → Option (Option Nat)
  | none => some none
  | some w => (natIn 1 9999999 (w.toNat : Int)).map some

/-- REGISTER PALLET (R104). -/
def registerRequest (l : Link) (tag : Word32) (cls : Byte) (loc : RawLoc) (budget : Option Word32) (p : Part) :
    Part × Reply :=
  guarded p (runtime p l .floor ++ [(tag == 0#32, .badValue)])
    (match class? cls, loc? loc, budget? budget with
    | some k, some x, some b =>
      if (p.pallet? tag.toNat).isSome then refuse p .exists_
      else if Config.palletCapacity ≤ p.pallets.length then refuse p .full
      else if p.wrongPlaceToRegister x k then refuse p .wrongPlace
      else done (p.register tag.toNat k x b)
    | _, _, _ => refuse p .badValue)

/-- A record leaves the table; a fall of occupancy starts the release pass (R106). -/
def Part.removePallet (p : Part) (x : Pallet) : Part :=
  let q := { p with pallets := p.pallets.filter (fun y => y.tag != x.tag) }.endOccupancy x.loc
  match x.loc with
  | .room _ => q.releasePass
  | _ => q

/-- REMOVE PALLET (R106). -/
def removeRequest (l : Link) (tag : Word32) (p : Part) : Part × Reply :=
  guarded p (runtime p l .floor ++ [(tag == 0#32, .badValue)])
    (match p.pallet? tag.toNat with
    | none => refuse p .noSuch
    | some x => if x.live then refuse p .wrongState else done (p.removePallet x))

/-! ### The meanings -/

/-- PALLET_BREACH (R111). -/
def execPalletBreach (t : Tag) (s : State) : Host.Outcome State Fault Refusal :=
  .next (s.onPart fun p => p.event (fun q => q.palletBreachStep t))

/-- REGISTER_PALLET (R104, R105). -/
def execRegisterPallet (l : Link) (ft : Byte) (tag : Word32) (cls : Byte) (loc : RawLoc) (budget : Option Word32)
    (s : State) : Host.Outcome State Fault Refusal :=
  .next (s.onPart fun p => p.take l 0x0F#8 ft (registerRequest l tag cls loc budget))

/-- REMOVE_PALLET (R106). -/
def execRemovePallet (l : Link) (ft : Byte) (tag : Word32) (s : State) : Host.Outcome State Fault Refusal :=
  .next (s.onPart fun p => p.take l 0x10#8 ft (removeRequest l tag))

end Sys2Proof.Machine
end

