-- ==== Sys2Proof/Machine/Moves.lean ====
section
/-! DEFINITION. The move block (07): ordering, picking, dropping and cancelling moves, the pick timer, and the
commands that are about a move. -/

namespace Sys2Proof.Machine

/-! ### Ordering (R119, R120) -/

/-- A destination does not fit the pallet (R119 steps 3 and 4). -/
def Part.wrongDestination (p : Part) (x : Pallet) (dest : Loc) : Bool :=
  match dest with
  | .transit => true
  | .trailer d => x.loc == dest || !(p.door d).trailer || x.breached
  | .room r => x.loc == dest || !p.accepts r x.cls x.breached

/-- The record of a move just ordered (R120). -/
def newMove (now : Nat) (x : Pallet) (dest : Loc) : Move :=
  { tag := x.tag, source := x.loc, dest := dest, direction := directionOf x.loc, state := .queued, enqueueStamp := now,
    stateStamp := now, pickSeconds := 0, lanes := [], reservation := none, recalls := 0 }

/-- A move taken: its record, the pallet's live move, and the release pass (R120). -/
def Part.order (p : Part) (x : Pallet) (dest : Loc) : Part :=
  ({ p with moves := p.moves ++ [newMove p.now x dest] }.updPallet x.tag (fun y => { y with live := true })).releasePass

/-- The move's state as ENQUEUE MOVE's answer carries it. -/
def Part.moveStateByte (p : Part) (t : Tag) : List Byte :=
  match p.move? t with
  | some m => u8 (moveStateCode m.state)
  | none => u8 0

/-- ENQUEUE MOVE (R118 to R120). -/
def enqueueRequest (l : Link) (tag : Word32) (dest : RawLoc) (p : Part) : Part × Reply :=
  guarded p (runtime p l .floor ++ [(tag == 0#32, .badValue)])
    (match loc? dest with
    | none => refuse p .badValue
    | some e =>
      match p.pallet? tag.toNat with
      | none => refuse p .noSuch
      | some x =>
        if x.live then refuse p .exists_
        else if p.wrongDestination x e then refuse p .wrongPlace
        else if Config.moveCapacity ≤ p.moves.length then refuse p .full
        else (p.order x e, .give ((p.order x e).moveStateByte tag.toNat)))

/-! ### Picking (R125, R126) -/

/-- The source door of a move is in BREACH (R48). -/
def Part.sourceBreached (doors : Vector Door 16) (m : Move) : Bool :=
  match m.source with
  | .trailer d => doors[d.val].state == .breach
  | _ => false

/-- A pick frees the source lane, and lowers the occupancy of a source room (R126 steps 3 and 4). -/
def Part.leaveSource (p : Part) (m : Move) : Part :=
  match m.source with
  | .room r => p.endOccupancy (.room r)
  | .trailer d => p.freeLane d
  | .transit => p

/-- A move as its pick leaves it. -/
def Move.afterPick (m : Move) (now : Nat) : Move :=
  { m with state := .picked, stateStamp := now,
           lanes := match m.source with
             | .trailer d => m.lanes.filter (fun e => e != d)
             | _ => m.lanes }

/-- A pick taken, with its quiet checks and its release pass (R126). -/
def Part.pick (p : Part) (m : Move) : Part :=
  let p1 := (p.updMove m.tag (fun x => x.afterPick p.now)).updPallet m.tag (fun x => { x with loc := .transit })
  (((p1.leaveSource m).examineMove m.tag).checkMoveRooms m).releasePass

/-- PICKED (R125). -/
def pickedRequest (l : Link) (tag : Word32) (p : Part) : Part × Reply :=
  guarded p (runtime p l .floor ++ [(tag == 0#32, .badValue)])
    (match p.move? tag.toNat with
    | none => refuse p .noSuch
    | some m =>
      match m.state with
      | .queued => if m.recalls = 0 then refuse p .wrongState else refuse p .tooLate
      | .released => if Part.sourceBreached p.doors m then refuse p .wrongState else done (p.pick m)
      | .picked => done p)

/-! ### Dropping (R129, R130) -/

/-- What a drop report is answered when it is refused: none when it is taken (R129 steps 2 to 6). -/
def Part.dropRefusal (p : Part) (m : Move) (x : Loc) : Option AnswerCode :=
  if m.state ≠ .picked then some .wrongState
  else match x with
    | .trailer d =>
      if (p.door d).state = .breach then some .wrongState
      else if x = m.dest then (if (p.door d).state = .opened then none else some .wrongState)
      else some .wrongPlace
    | .room r =>
      if x = m.dest then none
      else if p.acceptsTag r m.tag && !(p.room r).hold then none else some .wrongPlace
    | .transit => some .wrongPlace

/-- A drop taken, with its quiet checks and its release pass (R130). -/
def Part.drop (p : Part) (m : Move) (x : Loc) : Part :=
  let p1 := p.updPallet m.tag (fun y => { y with loc := x })
  let p2 := (p1.endReservation m.reservation).addOccupancy x
  let p3 := (m.lanes.foldl Part.freeLane p2).endTruck
  ((p3.endMove m.tag).checkMoveRooms m).releasePass

/-- DROPPED (R129). -/
def droppedRequest (l : Link) (tag : Word32) (loc : RawLoc) (p : Part) : Part × Reply :=
  guarded p (runtime p l .floor ++ [(tag == 0#32, .badValue)])
    (match loc? loc with
    | none => refuse p .badValue
    | some x =>
      match p.move? tag.toNat with
      | none => refuse p .noSuch
      | some m =>
        match p.dropRefusal m x with
        | some c => refuse p c
        | none => done (p.drop m x))

/-! ### Cancelling (R131) -/

/-- A cancel taken, with its quiet checks and its release pass (R131). -/
def Part.cancel (p : Part) (m : Move) : Part :=
  let p1 := if m.state = .released then (p.freeHoldings m).endTruck else p
  ((p1.endMove m.tag).checkMoveRooms m).releasePass

/-- CANCEL MOVE (R131). -/
def cancelRequest (l : Link) (tag : Word32) (p : Part) : Part × Reply :=
  guarded p (runtime p l .floor ++ [(tag == 0#32, .badValue)])
    (match p.move? tag.toNat with
    | none => refuse p .noSuch
    | some m => if m.state = .picked then refuse p .wrongState else done (p.cancel m))

/-! ### The pick timer (R127) -/

/-- A move's pick seconds at a second event: a RELEASED move advances, unless its source door stood in BREACH when the
event was issued (R2, R127). -/
def Part.pickAdvance (p : Part) (issued : Vector Door 16) (m : Move) : Part :=
  if m.state = .released ∧ Part.sourceBreached issued m = false then
    p.updMove m.tag (fun x => { x with pickSeconds := satSucc Config.pickSecondsMax x.pickSeconds })
  else p

/-- A RELEASED move's pick seconds are at or above the pick limit (R127; log entry 7). -/
def Part.pickOverdue (p : Part) (m : Move) : Bool :=
  m.state == .released && decide (p.store.floor.pickLimit ≤ m.pickSeconds)

/-- The part so far, and the tags recalled at this second event. -/
structure TimerRun where
  part     : Part
  recalled : List Tag

/-- One move at a second event: its pick timer, and its recall (R127). -/
def TimerRun.step (issued : Vector Door 16) (x : TimerRun) (t : Tag) : TimerRun :=
  match x.part.move? t with
  | some m =>
    let q := x.part.pickAdvance issued m
    match q.move? t with
    | some n =>
      if q.pickOverdue n then { part := q.recall n .timeout, recalled := x.recalled ++ [t] }
      else { x with part := q }
    | none => { x with part := q }
  | none => x

/-- Every move's conditions are examined (R136). DESIGN CHOICE: the moves are taken in queue order, both conditions of
one before the next (log entry 30). -/
def Part.examineMoves (p : Part) : Part := (p.moves.map (·.tag)).foldl Part.examineMove p

/-- The move block at a second event: the timers and recalls in queue order, the one release pass of the recalls, and
the conditions (R127, R136; log entry 8). -/
def Part.moveSecond (p : Part) (issued : Vector Door 16) : Part :=
  let x := (p.moves.map (·.tag)).foldl (TimerRun.step issued) { part := p, recalled := [] }
  let q := if x.recalled.isEmpty then x.part else x.part.releasePassBut x.recalled
  q.examineMoves

/-! ### The steps that are about a move, taken by themselves (log entry 3) -/

/-- PICK TIMEOUT in RUN: the recall, and the release pass that passes over its move (R127, R128). -/
def Part.pickTimeout (p : Part) (t : Tag) : Part :=
  if p.running then
    match p.move? t with
    | some m => if p.pickOverdue m then (p.recall m .timeout).releasePassBut [t] else p
    | none => p
  else p

def Part.transitLongStep (p : Part) (t : Tag) : Part := if p.running then p.examine .transitLong t else p
def Part.moveStalledStep (p : Part) (t : Tag) : Part := if p.running then p.examine .moveStalled t else p

/-- MOVE RELEASE in RUN: one step of the release pass (R123). DESIGN CHOICE: taken by itself it passes over no move, not
even one recalled at this second (R127; log entry 36). -/
def Part.moveRelease (p : Part) : Part :=
  if p.running then
    match p.chooseMove [] with
    | some m => p.releaseChosen m
    | none => p
  else p

/-! ### The meanings -/

/-- PICK_TIMEOUT (R127, R128). -/
def execPickTimeout (t : Tag) (s : State) : Host.Outcome State Fault Refusal :=
  .next (s.onPart fun p => p.event (fun q => q.pickTimeout t))

/-- TRANSIT_LONG (R136). -/
def execTransitLong (t : Tag) (s : State) : Host.Outcome State Fault Refusal :=
  .next (s.onPart fun p => p.event (fun q => q.transitLongStep t))

/-- MOVE_STALLED (R136). -/
def execMoveStalled (t : Tag) (s : State) : Host.Outcome State Fault Refusal :=
  .next (s.onPart fun p => p.event (fun q => q.moveStalledStep t))

/-- MOVE_RELEASE (R124). -/
def execMoveRelease (s : State) : Host.Outcome State Fault Refusal :=
  .next (s.onPart fun p => p.event Part.moveRelease)

/-- ENQUEUE_MOVE (R119, R120). -/
def execEnqueueMove (l : Link) (ft : Byte) (tag : Word32) (dest : RawLoc) (s : State) :
    Host.Outcome State Fault Refusal :=
  .next (s.onPart fun p => p.take l 0x11#8 ft (enqueueRequest l tag dest))

/-- CANCEL_MOVE (R131). -/
def execCancelMove (l : Link) (ft : Byte) (tag : Word32) (s : State) : Host.Outcome State Fault Refusal :=
  .next (s.onPart fun p => p.take l 0x12#8 ft (cancelRequest l tag))

/-- PICKED (R125, R126). -/
def execPicked (l : Link) (ft : Byte) (tag : Word32) (s : State) : Host.Outcome State Fault Refusal :=
  .next (s.onPart fun p => p.take l 0x13#8 ft (pickedRequest l tag))

/-- DROPPED (R129, R130). -/
def execDropped (l : Link) (ft : Byte) (tag : Word32) (loc : RawLoc) (s : State) : Host.Outcome State Fault Refusal :=
  .next (s.onPart fun p => p.take l 0x14#8 ft (droppedRequest l tag loc))

end Sys2Proof.Machine
end

