-- ==== Sys2Proof/Machine/Reads.lean ====
section
/-! DEFINITION. The read requests (09, Reads; R176): each answers with the state as it stands, and changes nothing but
what its own rule names. -/

namespace Sys2Proof.Machine

/-- READ ROOM (R24). -/
def readRoomRequest (room : Byte) (p : Part) : Part × Reply :=
  match room? room with
  | none => refuse p .noSuch
  | some r => (p, .give (roomRecord p r))

/-- READ DOOR (R51). -/
def readDoorRequest (door : Byte) (p : Part) : Part × Reply :=
  match door? door with
  | none => refuse p .noSuch
  | some d => (p, .give (doorRecord p d))

/-- READ COIL (R85). -/
def readCoilRequest (coil : Byte) (p : Part) : Part × Reply :=
  match coil? coil with
  | none => refuse p .noSuch
  | some c => (p, .give (coilRecord p c))

/-- READ PALLET (R115). -/
def readPalletRequest (tag : Word32) (p : Part) : Part × Reply :=
  if tag = 0#32 then refuse p .badValue
  else match p.pallet? tag.toNat with
    | none => refuse p .noSuch
    | some x => (p, .give (palletRecord p x))

/-- READ MOVES (R139, R171). -/
def readMovesRequest (index : Byte) (p : Part) : Part × Reply :=
  (p, .give (page p.moves index.toNat (moveRecord p)))

/-- READ ALARMS (R156, R171). -/
def readAlarmsRequest (index : Byte) (p : Part) : Part × Reply :=
  (p, .give (page p.alarms index.toNat (alarmRecord p)))

/-- READ CHANGES: the sending link's change set, which the same taking clears (R155). -/
def readChangesRequest (l : Link) (p : Part) : Part × Reply :=
  (p.updChange l (fun _ => {}), .give (changesRecord (p.change l)))

/-- The settings of a group's object, none where the object is outside the group's objects (R176). -/
def settingBytes (p : Part) (g : Group) (object : Byte) : Option (List Byte) :=
  match g with
  | .room => (room? object).map fun r => valueBytes (roomValues (p.roomSet r))
  | .door => (door? object).map fun d => doorSettingBytes (p.doorSet d)
  | .coil => (coil? object).map fun c => valueBytes (coilValues (p.coilSet c))
  | .plant => some (valueBytes (plantValues p.store.plant))
  | .floor => some (valueBytes (floorValues p.store.floor))
  | .cls => (class? object).map fun k => valueBytes (classValues (p.classRow k))
  | .route => (kind? object).map fun k => valueBytes (routeValues (p.route k))

/-- READ SETTINGS (R176). -/
def readSettingsRequest (group object : Byte) (p : Part) : Part × Reply :=
  match group? group with
  | none => refuse p .badValue
  | some g =>
    match settingBytes p g object with
    | none => refuse p .noSuch
    | some bytes => (p, .give (group :: object :: (flagByte (p.locked g) ++ bytes)))

/-- READ STATUS: its flags show the resync flag as it stood when the request was taken, and the taking clears the
sending link's flag after they have been fixed (R164, R170, R172). -/
def Part.takeStatus (p : Part) (l : Link) (ft : Byte) : Part :=
  if p.answersFull l then p
  else
    ((p.answer l 0x25#8 ft (.give (statusRecord p l))).updLink l (fun k => { k with resync := false })).startSending

/-! ### The meanings -/

/-- READ_ROOM (R24). -/
def execReadRoom (l : Link) (ft room : Byte) (s : State) : Host.Outcome State Fault Refusal :=
  .next (s.onPart fun p => p.take l 0x1F#8 ft (readRoomRequest room))

/-- READ_DOOR (R51). -/
def execReadDoor (l : Link) (ft door : Byte) (s : State) : Host.Outcome State Fault Refusal :=
  .next (s.onPart fun p => p.take l 0x20#8 ft (readDoorRequest door))

/-- READ_COIL (R85). -/
def execReadCoil (l : Link) (ft coil : Byte) (s : State) : Host.Outcome State Fault Refusal :=
  .next (s.onPart fun p => p.take l 0x21#8 ft (readCoilRequest coil))

/-- READ_PALLET (R115). -/
def execReadPallet (l : Link) (ft : Byte) (tag : Word32) (s : State) : Host.Outcome State Fault Refusal :=
  .next (s.onPart fun p => p.take l 0x22#8 ft (readPalletRequest tag))

/-- READ_MOVES (R139, R171). -/
def execReadMoves (l : Link) (ft index : Byte) (s : State) : Host.Outcome State Fault Refusal :=
  .next (s.onPart fun p => p.take l 0x23#8 ft (readMovesRequest index))

/-- READ_ALARMS (R156, R171). -/
def execReadAlarms (l : Link) (ft index : Byte) (s : State) : Host.Outcome State Fault Refusal :=
  .next (s.onPart fun p => p.take l 0x24#8 ft (readAlarmsRequest index))

/-- READ_STATUS (R170, R172). -/
def execReadStatus (l : Link) (ft : Byte) (s : State) : Host.Outcome State Fault Refusal :=
  .next (s.onPart fun p => p.takeStatus l ft)

/-- READ_CHANGES (R155). -/
def execReadChanges (l : Link) (ft : Byte) (s : State) : Host.Outcome State Fault Refusal :=
  .next (s.onPart fun p => p.take l 0x26#8 ft (readChangesRequest l))

/-- READ_SETTINGS (R176). -/
def execReadSettings (l : Link) (ft group object : Byte) (s : State) : Host.Outcome State Fault Refusal :=
  .next (s.onPart fun p => p.take l 0x27#8 ft (readSettingsRequest group object))

end Sys2Proof.Machine
end

