-- ==== Sys2Proof/Machine/Resets.lean ====
section
/-! DEFINITION. Pin reset (R179), COMMISSION (R177, R178), RESTART (R180, R181) and ACKNOWLEDGE (R150). -/

namespace Sys2Proof.Machine

/-! ### COMMISSION (R177, R178) -/

/-- Check 4: every room has at most one LEAD coil (R177). -/
def Part.leadsOf (p : Part) (r : RoomId) : List CoilId := (p.coilsOf r).filter (fun c => (p.coilSet c).role == .lead)

/-- Check 5 for one coil: a FOLLOW coil has a room with a LEAD coil (R177). -/
def Part.followOk (p : Part) (c : CoilId) : Bool :=
  (p.coilSet c).role != .follow ||
    (match p.coilRoom c with
    | some r => !(p.leadsOf r).isEmpty
    | none => false)

/-- The five checks in their order, each with whether it passes (R177). -/
def Part.commissionChecks (p : Part) : List (Nat × Bool) :=
  [(1, p.store.floor.transitRoom.isSome),
   (2, allCoils.all fun c => (p.coilRoom c).isSome),
   (3, allDoors.all fun d => (p.door d).state == .service || (p.inner d).isSome),
   (4, allRooms.all fun r => decide ((p.leadsOf r).length ≤ 1)),
   (5, allCoils.all p.followOk)]

/-- The number of the first check that fails (R177). -/
def Part.failedCheck (p : Part) : Option Nat := (p.commissionChecks.find? (fun x => !x.2)).map (·.1)

/-- The notice queue of a link emptied and its resync flag cleared. -/
def LinkState.quieten (k : LinkState) : LinkState := { k with notices := [], resync := false }

/-- Every link's notice queue emptied and every resync flag cleared (R178, R173). -/
def Part.quietLinks (p : Part) : Part :=
  ((p.updLink .plant LinkState.quieten).updLink .dock LinkState.quieten).updLink .floor LinkState.quieten

/-- The entry to RUN: every block in its starting state; settings, locks, run seconds and the clock as they stand
(R178). -/
def Part.enterRun (p : Part) : Part :=
  { p with
    store := { p.store with mode := .run }
    rooms := Vector.replicate 8 {}
    doors := Vector.replicate 16 {}
    coils := Vector.replicate 12 {}
    due := []
    pallets := []
    moves := []
    trucks := 0
    dirRun := {}
    alarms := []
    settled := []
    changes := Vector.replicate 3 {} }.quietLinks

/-- COMMISSION (R177, R178). -/
def commissionRequest (p : Part) : Part × Reply :=
  guarded p [(p.running, .refusedMode)]
    (match p.failedCheck with
    | some n => (p, { code := .incomplete, result := u8 n })
    | none => done p.enterRun)

/-! ### RESTART (R180, R181) -/

/-- Step 1: every notice queue emptied, every resync flag cleared, and RESTARTED queued on each link (R173, R181). -/
def Part.restartLinks (p : Part) (l : Link) : Part :=
  allLinks.foldl (fun q k => q.notify k (.restarted l p.time.day p.time.second)) p.quietLinks

/-- Step 2: every move leaves the queue with all it held (R140). -/
def Part.restartMoves (p : Part) : Part :=
  let p1 := { p with moves := [], trucks := 0, dirRun := {}
                     pallets := p.pallets.map (fun x => { x with live := false }) }
  let p2 := allDoors.foldl (fun q d => q.updDoor d (fun x => { x with lane := none })) p1
  allRooms.foldl (fun q r => q.updRoom r (fun x => { x with reservations := 0 })) p2

/-- A door at RESTART: WAITING becomes SEALED, and close orders owed or sent are cleared (R52). -/
def Door.restarted (x : Door) : Door :=
  { x with state := if x.state = .waiting then .sealed else x.state, owed := none, sent := false }

/-- Step 3: the doors, and every door queue emptied (R52, R64). -/
def Part.restartDoors (p : Part) : Part :=
  let p1 := allDoors.foldl (fun q d => q.updDoor d Door.restarted) p
  allRooms.foldl (fun q r => q.updRoom r (fun x => { x with queue := [] })) p1

/-- One coil at RESTART, by its phase; its staged fields are emptied in every phase (R87). -/
def Part.restartCoil (p : Part) (c : CoilId) : Part :=
  let q := p.updCoil c (fun x => { x with stagedInterval := none, stagedMax := none })
  let waitAnew : Coil → Coil := fun x => { x with waitMinutes := 0, armMinutes := 0, dueStamp := some p.now }
  match (q.coil c).phase with
  | .cooling | .recover | .off => q
  | .due => q.updCoil c waitAnew
  | .armed => (q.setPhase c .due (fun x => { waitAnew x with slot := false })).evalHoldOf c
  | .defrost | .drip =>
    let q1 := q.setPhase c .recover (fun x => { x with lastStop := some .restart, slot := false })
    ((q1.notify .plant (.defrostStop c .restart)).notify .plant (.coolResume c)).evalHoldOf c

/-- The coils now in DUE, in coil-number order (R87). -/
def Part.coilsDue (p : Part) : List CoilId := allCoils.filter (fun c => (p.coil c).phase == .due)

/-- Step 4: the coils in number order, the DUE queue rebuilt, and the arbiter's pass (R87, R98). -/
def Part.restartCoils (p : Part) : Part :=
  let q := allCoils.foldl Part.restartCoil p
  { q with due := q.coilsDue }.slotPass

/-- While steps 2 to 4 are taken the alarm block acts on nothing it is handed (R157, R180): its list and its settled
set are already empty and its routes read as masked, so that every hand-on leaves it as it is (log entry 12). -/
def Part.alarmsAside (p : Part) : Part :=
  { p with alarms := [], settled := [],
           store := { p.store with routes := Vector.replicate 13 (Route.initial .level .plant 1) } }

/-- The routes put back. -/
def Part.withRoutes (p : Part) (routes : Vector Route 13) : Part := { p with store := { p.store with routes := routes } }

/-- Every flag of every change set is set (R157). -/
def Part.markAll (p : Part) : Part :=
  p.onChanges (fun _ => { doors := BitVec.allOnes 16, rooms := BitVec.allOnes 8, coils := BitVec.allOnes 12 })

/-- Step 5: the list and the settled set emptied, the unmasked level kinds re-examined, every change flag set (R157). -/
def Part.restartAlarms (p : Part) : Part := { p with alarms := [], settled := [] }.reexamineAll.markAll

/-- RESTART's effects in their order (R180). -/
def Part.restartAll (p : Part) (l : Link) : Part :=
  let p1 := (p.restartLinks l).alarmsAside
  let p4 := p1.restartMoves.restartDoors.restartCoils
  (p4.withRoutes p.store.routes).restartAlarms

/-- RESTART (R180). -/
def restartRequest (l : Link) (p : Part) : Part × Reply :=
  guarded p [(!p.running, .refusedMode)] (done (p.restartAll l))

/-! ### ACKNOWLEDGE (R150, R151) -/

/-- ACKNOWLEDGE (R150, R151). -/
def acknowledgeRequest (l : Link) (code : Byte) (p : Part) : Part × Reply :=
  guarded p [(!p.running, .refusedMode), (code == 0#8, .badValue)]
    (let x := p.acknowledge l code.toNat
     (x.part, .give (u8 x.removed ++ u8 x.again)))

/-! ### The meanings -/

/-- PIN_RESET: the whole part at its pin-reset state, whatever it was doing (R179). The commands that wait outside the
part stay. -/
def execPinReset (s : State) : Host.Outcome State Fault Refusal := .next (s.onPart fun _ => Part.reset)

/-- ACKNOWLEDGE (R150, R151). -/
def execAcknowledge (l : Link) (ft code : Byte) (s : State) : Host.Outcome State Fault Refusal :=
  .next (s.onPart fun p => p.take l 0x28#8 ft (acknowledgeRequest l code))

/-- RESTART (R180, R181). -/
def execRestart (l : Link) (ft : Byte) (s : State) : Host.Outcome State Fault Refusal :=
  .next (s.onPart fun p => p.take l 0x2A#8 ft (restartRequest l))

/-- COMMISSION (R177, R178). -/
def execCommission (l : Link) (ft : Byte) (s : State) : Host.Outcome State Fault Refusal :=
  .next (s.onPart fun p => p.take l 0x2B#8 ft commissionRequest)

end Sys2Proof.Machine
end

