-- ==== Sys2Proof/Machine/Rooms.lean ====
section
/-! DEFINITION. The room block (01): sample intake and the filter, staleness, over-temperature qualification, room
exposure, and the commands that are about a room. -/

namespace Sys2Proof.Machine

/-! ### The filter (R11) -/

/-- A seed, or a step toward the corrected value (R11). -/
def filterNext (fresh : Bool) (k : Nat) (corrected f16 : Int) : Int :=
  if fresh then corrected * 16 else f16 + ((corrected * 16 - f16) * (k : Int)).tdiv 16

/-- The reported temperature of a filter value (R11). -/
def reported (f16 : Int) : Int := (f16 + 8).fdiv 16

/-- The corrected value of a reading (R10 steps 2 and 3). -/
def correct (x : RoomSettings) (v : Int) : Int := clampTemp (v + x.sampleOffset)

/-- A room record as a valid sample leaves it (R10 steps 1 to 5). -/
def Room.sampled (r : Room) (x : RoomSettings) (v : Int) : Room :=
  let f16 := filterNext (!r.seeded || r.stale) x.filterWeight (correct x v) r.f16
  { r with last := .value v, clamped := correct x v != v + x.sampleOffset, f16 := f16, f := reported f16,
           seeded := true, staleCount := 0, stale := false }

/-! ### Over-temperature (R14 to R16) -/

/-- The declared state changes: the room is marked, and ROOM OVER TEMP follows it (R23). -/
def Part.setDeclared (p : Part) (r : RoomId) (now : Bool) : Part :=
  if (p.room r).declared = now then p
  else ((p.updRoom r (fun x => { x with declared := now })).markRoom r).handLevel .roomOverTemp r.val now

/-- Suppression keeps a room that is not declared from becoming declared (R16). -/
def Part.heldBack (p : Part) (r : RoomId) : Bool :=
  !(p.room r).declared && (p.room r).raw (p.roomSet r) && p.suppressed r

/-- The evaluation with a qualify time of 0: the declared state follows the raw condition directly (R15, R16). -/
def Part.overTempDirect (p : Part) (r : RoomId) : Part :=
  let q := p.updRoom r (fun x => { x with qualifyCount := 0 })
  if q.heldBack r then q else q.setDeclared r ((q.room r).raw (q.roomSet r))

/-- The qualify counter at a second event: 0 while the raw condition agrees with the declared state, kept while
suppression holds it back, and otherwise one more (R14, R16). -/
def Part.overTempCount (p : Part) (r : RoomId) : Part :=
  if (p.room r).declared = (p.room r).raw (p.roomSet r) then p.updRoom r (fun x => { x with qualifyCount := 0 })
  else if p.heldBack r then p
  else p.updRoom r (fun x => { x with qualifyCount := x.qualifyCount + 1 })

/-- The compare of the qualify counter: at the qualify time the declared state takes the raw condition, and the counter
is set to 0 (R14). -/
def Part.overTempCompare (p : Part) (r : RoomId) : Part :=
  if (p.room r).declared ≠ (p.room r).raw (p.roomSet r) ∧ p.heldBack r = false ∧
      (p.roomSet r).qualify ≤ (p.room r).qualifyCount then
    (p.setDeclared r ((p.room r).raw (p.roomSet r))).updRoom r (fun x => { x with qualifyCount := 0 })
  else p

/-- A room's over-temperature examination at a second event (R14, R15). -/
def Part.overTempSecond (p : Part) (r : RoomId) : Part :=
  if (p.roomSet r).qualify = 0 then p.overTempDirect r else (p.overTempCount r).overTempCompare r

/-! ### Staleness (R13) -/

/-- The compare of the stale count: at the stale limit a room that is not stale becomes stale (R13, R23). -/
def Part.staleCompare (p : Part) (r : RoomId) : Part :=
  if (p.roomSet r).staleLimit ≤ (p.room r).staleCount ∧ (p.room r).stale = false then
    ((p.updRoom r (fun x => { x with stale := true })).markRoom r).levelTrue .roomSensorStale r.val
  else p

/-- A room at a second event: its stale count, then its over-temperature state (R13, R14). -/
def Part.roomSecond (p : Part) (r : RoomId) : Part :=
  ((p.updRoom r (fun x => { x with staleCount := satSucc Config.counterMax x.staleCount })).staleCompare
    r).overTempSecond r

/-! ### Sample intake (R9, R10) -/

/-- Every coil of the room in RECOVER makes its recovery check against the room's F (R81). -/
def Part.recoveryChecks (p : Part) (r : RoomId) : Part :=
  (p.coilsOf r).foldl (fun q c =>
    if (q.coil c).phase = .recover ∧ (q.room r).f ≤ (q.roomSet r).recoverLimit then q.enterCooling c else q) p

/-- A valid sample (R10). -/
def Part.validSample (p : Part) (r : RoomId) (v : Int) : Part :=
  let p1 := p.updRoom r (fun x => x.sampled (p.roomSet r) v)
  let p2 := if (p.room r).stale then (p1.markRoom r).levelFalse .roomSensorStale r.val else p1
  let p3 := if (p.roomSet r).qualify = 0 then p2.overTempDirect r else p2
  p3.recoveryChecks r

/-- A taken sample (R9, R10). -/
def Part.sample (p : Part) (r : RoomId) (x : Sample) : Part :=
  match x with
  | .value v => p.validSample r v
  | .fault => p.updRoom r (fun y => { y with last := .fault })
  | .absent => p

/-! ### Room exposure (R17, R18) -/

/-- T_room (R17). -/
def Part.roomTemp (p : Part) (r : RoomId) : Int := clampTemp ((p.room r).biased (p.roomSet r))

/-- A room's account at an exposure tick: a seeded room adds its excess (R17). -/
def Part.roomAccrue (p : Part) (r : RoomId) : Part :=
  if (p.room r).seeded then
    p.updRoom r (fun x =>
      { x with exposure := addExposure x.exposure (excessOver (p.roomTemp r) (p.roomSet r).alarmLimit) })
  else p

/-- The compare of E_room with its budget (R18). -/
def Part.exposureCompare (p : Part) (r : RoomId) : Part :=
  if (p.room r).seeded = true ∧ (p.room r).reached = false ∧ (p.roomSet r).exposureBudget ≤ (p.room r).exposure then
    (p.updRoom r (fun x => { x with reached := true })).raiseEdge .roomExposure r.val
  else p

/-- A room at an exposure tick (R17, R18). -/
def Part.roomTick (p : Part) (r : RoomId) : Part := (p.roomAccrue r).exposureCompare r

/-! ### The steps that are about a room, taken by themselves (log entry 3) -/

/-- ROOM SENSOR STALE in RUN (R13). -/
def Part.roomSensorStale (p : Part) (r : RoomId) : Part := if p.running then p.staleCompare r else p

/-- ROOM OVER TEMP in RUN (R14, R15). -/
def Part.roomOverTemp (p : Part) (r : RoomId) : Part :=
  if p.running then
    if (p.roomSet r).qualify = 0 then p.overTempDirect r else p.overTempCompare r
  else p

/-- ROOM EXPOSURE in RUN (R18). -/
def Part.roomExposure (p : Part) (r : RoomId) : Part := if p.running then p.exposureCompare r else p

/-- DOOR GRANT in RUN: one grant of the room's pass (R59). -/
def Part.doorGrant (p : Part) (r : RoomId) : Part :=
  if p.running then
    match p.grantStep r with
    | some q => q
    | none => p
  else p

/-! ### Requests about a room -/

/-- TEMPERATURE SAMPLE (R8). -/
def sampleRequest (l : Link) (room kind : Byte) (value : Word16) (p : Part) : Part × Reply :=
  guarded p (runtime p l .plant)
    (match room? room with
    | none => refuse p .noSuch
    | some r =>
      match reading? kind value with
      | none => refuse p .badValue
      | some x => done (p.sample r x))

/-- RESET ROOM EXPOSURE (R19). -/
def resetExposureRequest (l : Link) (room : Byte) (p : Part) : Part × Reply :=
  guarded p (runtime p l .plant)
    (match room? room with
    | none => refuse p .noSuch
    | some r => done (p.updRoom r (fun x => { x with exposure := 0, reached := false })))

/-! ### The meanings -/

/-- ROOM_SENSOR_STALE (R13). -/
def execRoomSensorStale (r : RoomId) (s : State) : Host.Outcome State Fault Refusal :=
  .next (s.onPart fun p => p.event (fun q => q.roomSensorStale r))

/-- ROOM_OVER_TEMP (R14, R15). -/
def execRoomOverTemp (r : RoomId) (s : State) : Host.Outcome State Fault Refusal :=
  .next (s.onPart fun p => p.event (fun q => q.roomOverTemp r))

/-- ROOM_EXPOSURE (R18). -/
def execRoomExposure (r : RoomId) (s : State) : Host.Outcome State Fault Refusal :=
  .next (s.onPart fun p => p.event (fun q => q.roomExposure r))

/-- DOOR_GRANT (R59). -/
def execDoorGrant (r : RoomId) (s : State) : Host.Outcome State Fault Refusal :=
  .next (s.onPart fun p => p.event (fun q => q.doorGrant r))

/-- TEMPERATURE_SAMPLE (R8 to R11). -/
def execTemperatureSample (l : Link) (ft room kind : Byte) (value : Word16) (s : State) :
    Host.Outcome State Fault Refusal :=
  .next (s.onPart fun p => p.take l 0x01#8 ft (sampleRequest l room kind value))

/-- RESET_ROOM_EXPOSURE (R19). -/
def execResetRoomExposure (l : Link) (ft room : Byte) (s : State) : Host.Outcome State Fault Refusal :=
  .next (s.onPart fun p => p.take l 0x06#8 ft (resetExposureRequest l room))

end Sys2Proof.Machine
end

