-- ==== Sys2Proof/Machine/Settings.lean ====
section
/-! DEFINITION. The settings store (10): the setting requests of every group, what each taken setting starts in RUN,
and the locks. -/

namespace Sys2Proof.Machine

/-- A request whose number of items no layout allows is discarded, and nothing changes (R162, R184). -/
def Part.takeItems (p : Part) (count : Nat) (items : List Item) (taken : Part) : Part :=
  if itemsOk count items then taken else p

/-! ### ROOM (R6, R7, R62) -/

/-- A carried capacity or door budget breaks its live limit (R6). -/
def Part.roomLimitBroken (p : Part) (r : RoomId) (items : List Item) (x : RoomSettings) : Bool :=
  (carries items 11 && decide (x.capacity < (p.room r).occupancy + (p.room r).reservations)) ||
  (carries items 10 && decide (x.doorBudget < (p.room r).granted))

/-- Room settings taken: a raised door budget starts the room's grant pass, and a capacity or a class that differs
from the held one the release pass (R7, R58, R122; log entry 23). -/
def Part.takeRoomSettings (p : Part) (r : RoomId) (x : RoomSettings) : Part :=
  let p1 := p.setRoomSet r x
  let p2 := if (p.roomSet r).doorBudget < x.doorBudget then p1.grantPass r else p1
  if (p.roomSet r).capacity ≠ x.capacity ∨ (p.roomSet r).cls ≠ x.cls then p2.releasePass else p2

/-- SET ROOM (R5, R6). -/
def setRoomRequest (l : Link) (room : Byte) (items : List Item) (p : Part) : Part × Reply :=
  guarded p [(p.running && !maySetRoom l items, .refusedLink), (p.locked .room, .locked)]
    (match room? room with
    | none => refuse p .noSuch
    | some r =>
      match newSettings roomItem items (p.roomSet r) with
      | none => refuse p .badValue
      | some x => if p.roomLimitBroken r items x then refuse p .wrongState else done (p.takeRoomSettings r x))

/-! ### DOOR (R27) -/

/-- A changed inner room or seal mode breaks its live limit (R27). -/
def Part.doorLimitBroken (p : Part) (d : DoorId) (x : DoorSettings) : Bool :=
  (x.innerRoom != (p.doorSet d).innerRoom && (p.door d).state != .vacant && (p.door d).state != .service) ||
  (x.sealMode != (p.doorSet d).sealMode && (p.door d).state == .breach)

/-- SET DOOR (R26, R27). -/
def setDoorRequest (l : Link) (door : Byte) (items : List Item) (p : Part) : Part × Reply :=
  guarded p [settingLink p l .dock, (p.locked .door, .locked)]
    (match door? door with
    | none => refuse p .noSuch
    | some d =>
      match newSettings doorItem items (p.doorSet d) with
      | none => refuse p .badValue
      | some x => if p.doorLimitBroken d x then refuse p .wrongState else done (p.setDoorSet d x))

/-- The profile a SET PROFILE carries: none where the span or a segment is out of range (R27). -/
def profile? (x : DoorSettings) (span : Word16) (segments : List Byte) : Option DoorSettings :=
  match natIn 5 600 (span.toNat : Int), segments? segments with
  | some n, some v => some { x with span := n, segments := v }
  | _, _ => none

/-- SET PROFILE (R26, R27). -/
def setProfileRequest (l : Link) (door : Byte) (span : Word16) (segments : List Byte) (p : Part) : Part × Reply :=
  guarded p [settingLink p l .dock, (p.locked .door, .locked)]
    (match door? door with
    | none => refuse p .noSuch
    | some d =>
      match profile? (p.doorSet d) span segments with
      | none => refuse p .badValue
      | some x => done (p.setDoorSet d x))

/-! ### COIL (R66) -/

/-- SET COIL: the room and the group role are SETUP-only (R65, R66). -/
def setCoilRequest (l : Link) (coil : Byte) (items : List Item) (p : Part) : Part × Reply :=
  guarded p [(p.running && (carries items 1 || carries items 2), .refusedMode), settingLink p l .plant,
      (p.locked .coil, .locked)]
    (match coil? coil with
    | none => refuse p .noSuch
    | some c =>
      match newSettings coilItem items (p.coilSet c) with
      | none => refuse p .badValue
      | some x => done (p.setCoilSet c x))

/-! ### PLANT (R94, R95) -/

/-- Plant settings taken: in RUN a carried defer or arm limit is applied to its condition, and the arbiter's pass
follows (R95 to R97; log entry 23). DESIGN CHOICE: where both limits are carried, DEFROST DEFERRED of every coil is
examined before DEFROST BLOCKED of every coil (log entry 10). -/
def Part.takePlantSettings (p : Part) (items : List Item) (x : PlantSettings) : Part :=
  let p1 := p.setPlantSet x
  if p.running then
    let p2 := if carries items 4 then p1.examineDeferred else p1
    let p3 := if carries items 6 then p2.examineBlocked else p2
    p3.slotPass
  else p1

/-- SET PLANT: the slot limit is SETUP-only (R94). -/
def setPlantRequest (l : Link) (items : List Item) (p : Part) : Part × Reply :=
  guarded p [(p.running && carries items 1, .refusedMode), settingLink p l .plant, (p.locked .plant, .locked)]
    (match newSettings plantItem items p.store.plant with
    | none => refuse p .badValue
    | some x => done (p.takePlantSettings items x))

/-! ### FLOOR (R101, R137, R138) -/

/-- Floor settings taken: in RUN a carried transit or stall limit examines every move, and a raised truck limit runs
the release pass (R136, R138; log entry 23). DESIGN CHOICE: the moves are examined in queue order, both conditions of
one before the next (log entry 30). -/
def Part.takeFloorSettings (p : Part) (items : List Item) (x : FloorSettings) : Part :=
  let p1 := p.setFloorSet x
  if p.running then
    let p2 := if carries items 7 || carries items 8 then p1.examineMoves else p1
    if p.store.floor.truckLimit < x.truckLimit then p2.releasePass else p2
  else p1

/-- SET FLOOR: the transit room and the quarantine room are SETUP-only, and the truck limit may not fall below the
truck count (R101, R137). -/
def setFloorRequest (l : Link) (items : List Item) (p : Part) : Part × Reply :=
  guarded p [(p.running && (carries items 1 || carries items 2), .refusedMode), settingLink p l .floor,
      (p.locked .floor, .locked)]
    (match newSettings floorItem items p.store.floor with
    | none => refuse p .badValue
    | some x =>
      if carries items 4 ∧ x.truckLimit < p.trucks then refuse p .wrongState
      else done (p.takeFloorSettings items x))

/-- SET TRUCKS, as a SET FLOOR carrying the truck limit (R137). -/
def setTrucksRequest (l : Link) (limit : Byte) : Part → Part × Reply :=
  setFloorRequest l [⟨4#8, limit.setWidth 32⟩]

/-! ### CLASS (R100) -/

/-- SET CLASS (R100). -/
def setClassRequest (cls : Byte) (items : List Item) (p : Part) : Part × Reply :=
  guarded p [(p.running, .refusedMode), (p.locked .cls, .locked)]
    (match class? cls with
    | none => refuse p .noSuch
    | some k =>
      match newSettings classItem items (p.classRow k) with
      | none => refuse p .badValue
      | some x => done (p.setClassRow k x))

/-! ### ROUTE (R143, R144) -/

/-- The settled marks of a kind are removed (R144). -/
def Part.unsettleKind (p : Part) (k : Kind) : Part := { p with settled := p.settled.filter (fun x => x.1 != k) }

/-- A route taken: in RUN unmasking, or a report mode from EDGE to LEVEL, re-examines the kind once (R144). -/
def Part.takeRoute (p : Part) (k : Kind) (x : Route) : Part :=
  let toLevel := (p.route k).mode == .edge && x.mode == .level
  let unmasked := (p.route k).masked && !x.masked
  let p1 := p.setRoute k x
  if p.running then
    let p2 := if toLevel then p1.unsettleKind k else p1
    if toLevel || unmasked then p2.reexamineKind k else p2
  else p1

/-- A link may not change the route of a kind: in RUN only its acknowledging link may (R143). -/
def Part.routeRefused (p : Part) (l : Link) (kind : Byte) : Bool :=
  p.running &&
    (match kind? kind with
    | some k => (p.route k).ack != l
    | none => true)

/-- SET ROUTE (R143). -/
def setRouteRequest (l : Link) (kind : Byte) (items : List Item) (p : Part) : Part × Reply :=
  guarded p [(p.routeRefused l kind, .refusedLink), (p.locked .route, .locked)]
    (match kind? kind with
    | none => refuse p .noSuch
    | some k =>
      match newSettings (routeItem k.isLevel) items (p.route k) with
      | none => refuse p .badValue
      | some x => done (p.takeRoute k x))

/-! ### LOCK (R175) -/

/-- LOCK (R175). -/
def lockRequest (group : Byte) (p : Part) : Part × Reply :=
  match group? group with
  | none => refuse p .badValue
  | some g => done (p.setLock g)

/-! ### The meanings -/

/-- SET_ROOM (R6). -/
def execSetRoom (l : Link) (ft room : Byte) (items : List Item) (s : State) : Host.Outcome State Fault Refusal :=
  .next (s.onPart fun p => p.takeItems roomSettingCount items (p.take l 0x15#8 ft (setRoomRequest l room items)))

/-- SET_DOOR (R27). -/
def execSetDoor (l : Link) (ft door : Byte) (items : List Item) (s : State) : Host.Outcome State Fault Refusal :=
  .next (s.onPart fun p => p.takeItems doorSettingCount items (p.take l 0x16#8 ft (setDoorRequest l door items)))

/-- SET_PROFILE (R27). -/
def execSetProfile (l : Link) (ft door : Byte) (span : Word16) (segments : List Byte) (s : State) :
    Host.Outcome State Fault Refusal :=
  .next (s.onPart fun p =>
    if segmentsOk segments then p.take l 0x17#8 ft (setProfileRequest l door span segments) else p)

/-- SET_COIL (R66). -/
def execSetCoil (l : Link) (ft coil : Byte) (items : List Item) (s : State) : Host.Outcome State Fault Refusal :=
  .next (s.onPart fun p => p.takeItems coilSettingCount items (p.take l 0x18#8 ft (setCoilRequest l coil items)))

/-- SET_PLANT (R94, R95). -/
def execSetPlant (l : Link) (ft : Byte) (items : List Item) (s : State) : Host.Outcome State Fault Refusal :=
  .next (s.onPart fun p => p.takeItems plantSettingCount items (p.take l 0x19#8 ft (setPlantRequest l items)))

/-- SET_FLOOR (R101, R137, R138). -/
def execSetFloor (l : Link) (ft : Byte) (items : List Item) (s : State) : Host.Outcome State Fault Refusal :=
  .next (s.onPart fun p => p.takeItems floorSettingCount items (p.take l 0x1A#8 ft (setFloorRequest l items)))

/-- SET_TRUCKS (R137). -/
def execSetTrucks (l : Link) (ft limit : Byte) (s : State) : Host.Outcome State Fault Refusal :=
  .next (s.onPart fun p => p.take l 0x1B#8 ft (setTrucksRequest l limit))

/-- SET_CLASS (R100). -/
def execSetClass (l : Link) (ft cls : Byte) (items : List Item) (s : State) : Host.Outcome State Fault Refusal :=
  .next (s.onPart fun p => p.takeItems classSettingCount items (p.take l 0x1C#8 ft (setClassRequest cls items)))

/-- SET_ROUTE (R143, R144). -/
def execSetRoute (l : Link) (ft kind : Byte) (items : List Item) (s : State) : Host.Outcome State Fault Refusal :=
  .next (s.onPart fun p => p.takeItems routeSettingCount items (p.take l 0x1D#8 ft (setRouteRequest l kind items)))

/-- LOCK (R175). -/
def execLock (l : Link) (ft group : Byte) (s : State) : Host.Outcome State Fault Refusal :=
  .next (s.onPart fun p => p.take l 0x1E#8 ft (lockRequest group))

end Sys2Proof.Machine
end

