-- ==== Sys2Proof/Machine/Time.lean ====
section
/-! DEFINITION. The time base (01) and the work its events start in every block: the second event, the exposure tick,
the minute event, and SET CLOCK. -/

namespace Sys2Proof.Machine

/-! ### The counters (R1 to R3) -/

/-- The clock a second later (R3). -/
def clockNext (day second : Nat) : Nat × Nat :=
  if second + 1 < Config.secondsPerDay then (day, second + 1)
  else (if day < Config.dayMax then day + 1 else 0, 0)

/-- The time base a second later, with the tick and the minute event it issues (R1 to R3). -/
def TimeBase.advance (t : TimeBase) : TimeBase :=
  let n := satSucc Config.runSecondsMax t.runSeconds
  { runSeconds := n,
    day := (clockNext t.day t.second).1,
    second := (clockNext t.day t.second).2,
    tickIssued := n % Config.tickPeriod == 0,
    minuteIssued := n % Config.minutePeriod == 0 }

/-! ### The work of each event -/

/-- The second event of RUN: the room block, then the door block, then the move block, whose pick timers read the
doors as they stood when the event was issued (R2, R13, R36, R127; log entry 4). In SETUP no block acts on it. -/
def Part.secondWork (p : Part) : Part :=
  if p.running then
    ((allDoors.foldl Part.doorSecond (allRooms.foldl Part.roomSecond p))).moveSecond p.doors
  else p

/-- The exposure tick of RUN: the rooms in number order, then the pallets in table order (R17, R108; log entry 4).
DESIGN CHOICE: a record is taken whole, with the release pass that the abort of its move runs, before the next record,
so that two breaches at one tick are dealt with one after the other (log entry 35). -/
def Part.tickWork (p : Part) : Part :=
  if p.running then p.pallets.foldl Part.palletTick (allRooms.foldl Part.roomTick p) else p

/-- An issued exposure tick is taken, once (R2; log entry 2). -/
def Part.takeTick (p : Part) : Part :=
  if p.time.tickIssued then { p with time := { p.time with tickIssued := false } }.tickWork else p

/-- An issued minute event is taken, once, and after the tick of its second (R2, R108; log entry 2). -/
def Part.takeMinute (p : Part) : Part :=
  if p.time.minuteIssued then
    let q := p.takeTick
    { q with time := { q.time with minuteIssued := false } }.minuteWork
  else p

/-- The second event: what the second before it issued is taken first where it still waits, then the counters advance
and every block takes its work of the second (R1, R2; log entry 2). -/
def Part.secondEvent (p : Part) : Part :=
  let q := p.takeMinute.takeTick
  { q with time := q.time.advance }.secondWork

/-! ### SET CLOCK (R4) -/

/-- SET CLOCK (R4). -/
def setClockRequest (day : Word16) (second : Word32) (p : Part) : Part × Reply :=
  if Config.secondsPerDay ≤ second.toNat then refuse p .badValue
  else done { p with time := { p.time with day := day.toNat, second := second.toNat } }

/-! ### The meanings -/

/-- SECOND_EVENT (R1). -/
def execSecondEvent (s : State) : Host.Outcome State Fault Refusal :=
  .next (s.onPart fun p => p.event Part.secondEvent)

/-- EXPOSURE_TICK (R2). -/
def execExposureTick (s : State) : Host.Outcome State Fault Refusal :=
  .next (s.onPart fun p => p.event Part.takeTick)

/-- MINUTE_EVENT (R69). -/
def execMinuteEvent (s : State) : Host.Outcome State Fault Refusal :=
  .next (s.onPart fun p => p.event Part.takeMinute)

/-- SET_CLOCK (R4). -/
def execSetClock (l : Link) (ft : Byte) (day : Word16) (second : Word32) (s : State) :
    Host.Outcome State Fault Refusal :=
  .next (s.onPart fun p => p.take l 0x29#8 ft (setClockRequest day second))

end Sys2Proof.Machine
end

