-- ==== Sys2Proof/Machine/Links.lean ====
section
/-! DEFINITION. The link block's line events (09): characters, gaps and errors on the receive side, the end of a frame
on the send side, and the taking of a request whose frame completes. -/

namespace Sys2Proof.Machine

/-- The receive side of a link takes a state. -/
def Part.setRx (p : Part) (l : Link) (rx : Rx) : Part := p.updLink l (fun k => { k with rx := rx })

/-- What a good character does to a receive side (R160): its next state, and the bytes of the frame it completes. -/
def Rx.char (rx : Rx) (b : Byte) : Rx × Option (List Byte) :=
  match rx with
  | .hunting => (if b = startByte then .assembling [] else .hunting, none)
  | .assembling [] => (if 3 ≤ b.toNat ∧ b.toNat ≤ 250 then .assembling [b] else .hunting, none)
  | .assembling (n :: rest) =>
    let bytes := n :: rest ++ [b]
    if bytes.length < n.toNat + 3 then (.assembling bytes, none) else (.hunting, some bytes)

/-- The taking of a request, by its own meaning (R163). The commands that are no request are not taken so. -/
def takeRequest (i : Instr) (s : State) : Host.Outcome State Fault Refusal :=
  match i with
  | .temperatureSample l ft r k v => execTemperatureSample l ft r k v s
  | .coilTerminated l ft c => execCoilTerminated l ft c s
  | .demandDefrost l ft c => execDemandDefrost l ft c s
  | .stageCoilTiming l ft c x i m => execStageCoilTiming l ft c x i m s
  | .coilService l ft c v => execCoilService l ft c v s
  | .resetRoomExposure l ft r => execResetRoomExposure l ft r s
  | .trailerArrived l ft d v => execTrailerArrived l ft d v s
  | .trailerLeft l ft d => execTrailerLeft l ft d s
  | .restraint l ft d v => execRestraint l ft d v s
  | .sealCondition l ft d v => execSealCondition l ft d v s
  | .doorPosition l ft d v => execDoorPosition l ft d v s
  | .doorService l ft d v => execDoorService l ft d v s
  | .openRequest l ft d => execOpenRequest l ft d s
  | .openCancel l ft d => execOpenCancel l ft d s
  | .registerPallet l ft t c x b => execRegisterPallet l ft t c x b s
  | .removePallet l ft t => execRemovePallet l ft t s
  | .enqueueMove l ft t x => execEnqueueMove l ft t x s
  | .cancelMove l ft t => execCancelMove l ft t s
  | .picked l ft t => execPicked l ft t s
  | .dropped l ft t x => execDropped l ft t x s
  | .setRoom l ft r items => execSetRoom l ft r items s
  | .setDoor l ft d items => execSetDoor l ft d items s
  | .setProfile l ft d span segments => execSetProfile l ft d span segments s
  | .setCoil l ft c items => execSetCoil l ft c items s
  | .setPlant l ft items => execSetPlant l ft items s
  | .setFloor l ft items => execSetFloor l ft items s
  | .setTrucks l ft n => execSetTrucks l ft n s
  | .setClass l ft c items => execSetClass l ft c items s
  | .setRoute l ft k items => execSetRoute l ft k items s
  | .lock l ft g => execLock l ft g s
  | .readRoom l ft r => execReadRoom l ft r s
  | .readDoor l ft d => execReadDoor l ft d s
  | .readCoil l ft c => execReadCoil l ft c s
  | .readPallet l ft t => execReadPallet l ft t s
  | .readMoves l ft i => execReadMoves l ft i s
  | .readAlarms l ft i => execReadAlarms l ft i s
  | .readStatus l ft => execReadStatus l ft s
  | .readChanges l ft => execReadChanges l ft s
  | .readSettings l ft g o => execReadSettings l ft g o s
  | .acknowledge l ft c => execAcknowledge l ft c s
  | .setClock l ft d t => execSetClock l ft d t s
  | .restart l ft => execRestart l ft s
  | .commission l ft => execCommission l ft s
  | .pinReset | .secondEvent | .exposureTick | .minuteEvent
  | .roomSensorStale _ | .roomOverTemp _ | .roomExposure _ | .sealQualification _ | .doorOpenLong _
  | .coolingInterval _ | .defrostOverrun _ | .dripEnd _ | .recoveryFail _ | .defrostDeferred _
  | .defrostBlocked _ | .pickTimeout _ | .transitLong _ | .moveStalled _ | .palletBreach _
  | .doorGrant _ | .slotGrant | .defrostEntry _ | .moveRelease | .closeOrder _
  | .frameDiscard _ | .frameGap _ | .characterError _ | .frameSent _ | .characterReceived .. => .next s

/-- The end of a frame on a link's line: the next frame is chosen, an answer before a notice (R168). -/
def LinkState.sent (k : LinkState) : LinkState := { k with sending := none }.start

/-! ### The meanings -/

/-- FRAME_DISCARD: a completed frame that fails a check leaves nothing behind, and the side hunts (R160, R162). -/
def execFrameDiscard (l : Link) (s : State) : Host.Outcome State Fault Refusal :=
  .next (s.onPart fun p => p.setRx l .hunting)

/-- FRAME_GAP: the frame being assembled is discarded, and the character that ends the gap is a hunting character
(R160). -/
def execFrameGap (l : Link) (s : State) : Host.Outcome State Fault Refusal :=
  .next (s.onPart fun p => p.setRx l .hunting)

/-- CHARACTER_ERROR: the frame being assembled is discarded, and the next good character is a hunting character
(R158). -/
def execCharacterError (l : Link) (s : State) : Host.Outcome State Fault Refusal :=
  .next (s.onPart fun p => p.setRx l .hunting)

/-- FRAME_SENT (R168). -/
def execFrameSent (l : Link) (s : State) : Host.Outcome State Fault Refusal :=
  .next (s.onPart fun p => p.updLink l LinkState.sent)

/-- CHARACTER_RECEIVED: the receive side takes the character; where that completes a frame that passes the checks, the
request in it is taken in the same step (R160 to R163). -/
def execCharacterReceived (l : Link) (b : Byte) (s : State) : Host.Outcome State Fault Refusal :=
  let rx := (s.part.link l).rx.char b
  let t := s.onPart fun p => p.setRx l rx.1
  match rx.2 with
  | some bytes =>
    match frameRequest l bytes with
    | some i => takeRequest i t
    | none => .next t
  | none => .next t

end Sys2Proof.Machine
end

