-- ==== Sys2Proof/Machine/Dispatch.lean ====
section
/-! DEFINITION. One arm for each command: a direct call of its meaning. -/

namespace Sys2Proof.Machine

/-- The effect of a command on everything but the queue of waiting commands. -/
def exec (i : Instr) (s : State) : Host.Outcome State Fault Refusal :=
  match i with
  | .pinReset => Sys2Proof.Machine.execPinReset s
  | .secondEvent => Sys2Proof.Machine.execSecondEvent s
  | .exposureTick => Sys2Proof.Machine.execExposureTick s
  | .minuteEvent => Sys2Proof.Machine.execMinuteEvent s
  | .roomSensorStale room => Sys2Proof.Machine.execRoomSensorStale room s
  | .roomOverTemp room => Sys2Proof.Machine.execRoomOverTemp room s
  | .roomExposure room => Sys2Proof.Machine.execRoomExposure room s
  | .sealQualification door => Sys2Proof.Machine.execSealQualification door s
  | .doorOpenLong door => Sys2Proof.Machine.execDoorOpenLong door s
  | .coolingInterval coil => Sys2Proof.Machine.execCoolingInterval coil s
  | .defrostOverrun coil => Sys2Proof.Machine.execDefrostOverrun coil s
  | .dripEnd coil => Sys2Proof.Machine.execDripEnd coil s
  | .recoveryFail coil => Sys2Proof.Machine.execRecoveryFail coil s
  | .defrostDeferred coil => Sys2Proof.Machine.execDefrostDeferred coil s
  | .defrostBlocked coil => Sys2Proof.Machine.execDefrostBlocked coil s
  | .pickTimeout tag => Sys2Proof.Machine.execPickTimeout tag s
  | .transitLong tag => Sys2Proof.Machine.execTransitLong tag s
  | .moveStalled tag => Sys2Proof.Machine.execMoveStalled tag s
  | .palletBreach tag => Sys2Proof.Machine.execPalletBreach tag s
  | .doorGrant room => Sys2Proof.Machine.execDoorGrant room s
  | .slotGrant => Sys2Proof.Machine.execSlotGrant s
  | .defrostEntry coil => Sys2Proof.Machine.execDefrostEntry coil s
  | .moveRelease => Sys2Proof.Machine.execMoveRelease s
  | .closeOrder door => Sys2Proof.Machine.execCloseOrder door s
  | .temperatureSample link ft room kind value => Sys2Proof.Machine.execTemperatureSample link ft room kind value s
  | .coilTerminated link ft coil => Sys2Proof.Machine.execCoilTerminated link ft coil s
  | .demandDefrost link ft coil => Sys2Proof.Machine.execDemandDefrost link ft coil s
  | .stageCoilTiming link ft coil presence interval maximum => Sys2Proof.Machine.execStageCoilTiming link ft coil presence interval maximum s
  | .coilService link ft coil value => Sys2Proof.Machine.execCoilService link ft coil value s
  | .resetRoomExposure link ft room => Sys2Proof.Machine.execResetRoomExposure link ft room s
  | .trailerArrived link ft door reading => Sys2Proof.Machine.execTrailerArrived link ft door reading s
  | .trailerLeft link ft door => Sys2Proof.Machine.execTrailerLeft link ft door s
  | .restraint link ft door value => Sys2Proof.Machine.execRestraint link ft door value s
  | .sealCondition link ft door value => Sys2Proof.Machine.execSealCondition link ft door value s
  | .doorPosition link ft door value => Sys2Proof.Machine.execDoorPosition link ft door value s
  | .doorService link ft door value => Sys2Proof.Machine.execDoorService link ft door value s
  | .openRequest link ft door => Sys2Proof.Machine.execOpenRequest link ft door s
  | .openCancel link ft door => Sys2Proof.Machine.execOpenCancel link ft door s
  | .registerPallet link ft tag cls loc budget => Sys2Proof.Machine.execRegisterPallet link ft tag cls loc budget s
  | .removePallet link ft tag => Sys2Proof.Machine.execRemovePallet link ft tag s
  | .enqueueMove link ft tag dest => Sys2Proof.Machine.execEnqueueMove link ft tag dest s
  | .cancelMove link ft tag => Sys2Proof.Machine.execCancelMove link ft tag s
  | .picked link ft tag => Sys2Proof.Machine.execPicked link ft tag s
  | .dropped link ft tag loc => Sys2Proof.Machine.execDropped link ft tag loc s
  | .setRoom link ft room items => Sys2Proof.Machine.execSetRoom link ft room items s
  | .setDoor link ft door items => Sys2Proof.Machine.execSetDoor link ft door items s
  | .setProfile link ft door span segments => Sys2Proof.Machine.execSetProfile link ft door span segments s
  | .setCoil link ft coil items => Sys2Proof.Machine.execSetCoil link ft coil items s
  | .setPlant link ft items => Sys2Proof.Machine.execSetPlant link ft items s
  | .setFloor link ft items => Sys2Proof.Machine.execSetFloor link ft items s
  | .setTrucks link ft limit => Sys2Proof.Machine.execSetTrucks link ft limit s
  | .setClass link ft cls items => Sys2Proof.Machine.execSetClass link ft cls items s
  | .setRoute link ft kind items => Sys2Proof.Machine.execSetRoute link ft kind items s
  | .lock link ft group => Sys2Proof.Machine.execLock link ft group s
  | .readRoom link ft room => Sys2Proof.Machine.execReadRoom link ft room s
  | .readDoor link ft door => Sys2Proof.Machine.execReadDoor link ft door s
  | .readCoil link ft coil => Sys2Proof.Machine.execReadCoil link ft coil s
  | .readPallet link ft tag => Sys2Proof.Machine.execReadPallet link ft tag s
  | .readMoves link ft index => Sys2Proof.Machine.execReadMoves link ft index s
  | .readAlarms link ft index => Sys2Proof.Machine.execReadAlarms link ft index s
  | .readStatus link ft => Sys2Proof.Machine.execReadStatus link ft s
  | .readChanges link ft => Sys2Proof.Machine.execReadChanges link ft s
  | .readSettings link ft group object => Sys2Proof.Machine.execReadSettings link ft group object s
  | .acknowledge link ft code => Sys2Proof.Machine.execAcknowledge link ft code s
  | .setClock link ft day second => Sys2Proof.Machine.execSetClock link ft day second s
  | .restart link ft => Sys2Proof.Machine.execRestart link ft s
  | .commission link ft => Sys2Proof.Machine.execCommission link ft s
  | .frameDiscard link => Sys2Proof.Machine.execFrameDiscard link s
  | .frameGap link => Sys2Proof.Machine.execFrameGap link s
  | .characterError link => Sys2Proof.Machine.execCharacterError link s
  | .frameSent link => Sys2Proof.Machine.execFrameSent link s
  | .characterReceived link char => Sys2Proof.Machine.execCharacterReceived link char s

end Sys2Proof.Machine
end

