-- ==== Sys2Proof/Safety.lean ====
section
/-! DEFINITION. What a run of the part keeps, in the terms the statements use: the facts that no follow-on pass
changes, the ranges and capacities the rules give the part's state, and the fields of a record as the manual lays them
out. -/

namespace Sys2Proof.Machine

/-! ### The facts

A follow-on pass (a release pass, a grant pass, a hold re-evaluated, a quiet check, the arbiter's pass, a recall, an
abort, an alarm made or followed) works on queues, counts, phases, states and notices. What it leaves alone are the
facts: the time base, the settings but for a coil's staged timings, the samples and accounts of the rooms, the
physical fields of the doors, the pallets but for their live moves, and the receive sides, answers and lines of the
links. `facts` keeps these and puts a fixed value in the place of everything else. -/

def Room.facts (x : Room) : Room :=
  { x with reservations := 0, openDoors := 0, granted := 0, hold := false, queue := [] }

def Door.facts (x : Door) : Door :=
  { x with state := .vacant, cause := none, openStart := none, captured := none, openLong := false, owed := none,
           sent := false, lane := none }

def CoilSettings.facts (x : CoilSettings) : CoilSettings := { x with interval := 0, defrostMax := 0 }

def Pallet.facts (x : Pallet) : Pallet := { x with live := false }

def LinkState.facts (x : LinkState) : LinkState := { x with notices := [], resync := false }

def Part.facts (p : Part) : Part where
  time := p.time
  store := { p.store with coils := p.store.coils.map CoilSettings.facts }
  rooms := p.rooms.map Room.facts
  doors := p.doors.map Door.facts
  coils := Vector.replicate 12 {}
  due := []
  pallets := p.pallets.map Pallet.facts
  moves := []
  trucks := 0
  dirRun := {}
  alarms := []
  settled := []
  changes := Vector.replicate 3 {}
  links := p.links.map LinkState.facts

/-! ### Ranges and capacities -/

/-- The counters of the time base are in their ranges (R1, R3). -/
def Part.ClockInRange (p : Part) : Prop :=
  p.time.runSeconds ≤ Config.runSecondsMax ∧ p.time.day ≤ Config.dayMax ∧ p.time.second < Config.secondsPerDay

/-- Every filter weight is in its range, every F16 is in its range, and every F is the reported temperature of its
F16 (R6, R11). -/
def Part.FiltersInRange (p : Part) : Prop :=
  ∀ r : RoomId, 1 ≤ (p.roomSet r).filterWeight ∧ (p.roomSet r).filterWeight ≤ 16 ∧
    -8000 ≤ (p.room r).f16 ∧ (p.room r).f16 ≤ 8000 ∧ (p.room r).f = reported (p.room r).f16

/-- Every exposure account is in its range, and every pallet marked breached has reached its budget (R17, R110,
R111). -/
def Part.AccountsInRange (p : Part) : Prop :=
  (∀ r : RoomId, (p.room r).exposure ≤ Config.exposureMax) ∧
  ∀ x ∈ p.pallets, x.exposure ≤ Config.exposureMax ∧ (x.breached = true → x.budget ≤ x.exposure)

/-- No link holds more than 32 notices or more than 8 answers (R163, R169). -/
def Part.QueuesInRange (p : Part) : Prop :=
  ∀ l : Link, (p.link l).notices.length ≤ Config.noticeCapacity ∧ (p.link l).answers.length ≤ Config.answerCapacity

/-- The active alarm list holds at most 64 entries, at most one for a kind and object, and its repeat counts are in
their range (R145). -/
def Part.AlarmsInRange (p : Part) : Prop :=
  p.alarms.length ≤ Config.alarmCapacity ∧ (p.alarms.map fun a => (a.kind, a.object)).Nodup ∧
  ∀ a ∈ p.alarms, 1 ≤ a.repeats ∧ a.repeats ≤ Config.countMax

/-- The pallet table and the move queue hold no more records than they have places, and no two pallets have one tag
(R99, R117). -/
def Part.TablesInRange (p : Part) : Prop :=
  p.pallets.length ≤ Config.palletCapacity ∧ (p.pallets.map (·.tag)).Nodup ∧ p.moves.length ≤ Config.moveCapacity

/-! ### What the queues, the tables and the counts have to do with one another -/

/-- The DUE queue holds every coil whose phase is DUE, and only such coils, each once (R89). -/
def Part.DueQueueMatches (p : Part) : Prop :=
  p.due.Nodup ∧ ∀ c : CoilId, c ∈ p.due ↔ (p.coil c).phase = .due

/-- A room's door queue holds the doors of the room that are WAITING, each once (R53). -/
def Part.DoorQueuesMatch (p : Part) : Prop :=
  ∀ r : RoomId, (p.room r).queue.Nodup ∧
    ∀ d : DoorId, d ∈ (p.room r).queue ↔ (p.door d).state = .waiting ∧ p.inner d = some r

/-- A room's defrost hold is set exactly while a coil of it is in ARMED, DEFROST or DRIP, and in SETUP every coil is in
COOLING (R22, R178). -/
def Part.HoldsFollow (p : Part) : Prop :=
  (∀ r : RoomId, (p.room r).hold = true ↔ ∃ c : CoilId, p.coilRoom c = some r ∧
    ((p.coil c).phase = .armed ∨ (p.coil c).phase = .defrost ∨ (p.coil c).phase = .drip)) ∧
  (p.running = false → ∀ c : CoilId, (p.coil c).phase = .cooling)

/-- A room's open-door count is the number of its doors in OPEN or BREACH, and its granted count the number of those
whose present opening began with a grant (R21, R38). -/
def Part.OpenDoorsCount (p : Part) : Prop :=
  ∀ r : RoomId,
    (p.room r).openDoors = (allDoors.filter fun d => decide (p.inner d = some r) && (p.door d).openState).length ∧
    (p.room r).granted = (allDoors.filter fun d => decide (p.inner d = some r) && (p.door d).byGrant).length

/-- No tag has two pallets or two moves; every move has its pallet, which shows a live move and stands at the move's
source, or in TRANSIT once it is picked; and every pallet that shows a live move has one (R99, R102, R107, R117). -/
def Part.MovesMatch (p : Part) : Prop :=
  (p.pallets.map (·.tag)).Nodup ∧ (p.moves.map (·.tag)).Nodup ∧
  (∀ m ∈ p.moves, ∃ x ∈ p.pallets, x.tag = m.tag ∧ x.live = true ∧
    x.loc = if m.state = .picked then .transit else m.source) ∧
  ∀ x ∈ p.pallets, x.live = true → ∃ m ∈ p.moves, m.tag = x.tag

/-- The occupancy of a room is the number of pallets located in it (R20). -/
def Part.OccupancyCounts (p : Part) : Prop :=
  ∀ r : RoomId, (p.room r).occupancy = (p.pallets.filter fun x => x.loc == .room r).length

/-- The truck count is the number of moves in RELEASED or PICKED, and within the truck limit (07, The move record;
R123). -/
def Part.TrucksCount (p : Part) : Prop :=
  p.trucks = (p.moves.filter Move.inFlight).length ∧ p.trucks ≤ p.store.floor.truckLimit

/-- What a move holds by its state: QUEUED nothing; RELEASED the lanes of the doors it names and a reservation at a
destination room; PICKED the same but for the lane of its source door (R124, R126, R128). -/
def Move.HoldsByState (m : Move) : Prop :=
  m.lanes = (match m.state with
    | .queued => []
    | .released => m.source.door?.toList ++ m.dest.door?.toList
    | .picked => m.dest.door?.toList) ∧
  m.reservation = (if m.state = .queued then none else m.dest.room?) ∧ m.source ≠ m.dest

/-- Every move holds what its state gives it; a room's reservations are the number of RELEASED and PICKED moves bound
for it (R20); and a door's lane holds the tag of the one move that lists the door among its lanes, and is empty where
none does (R46, R124). -/
def Part.HoldingsMatch (p : Part) : Prop :=
  (∀ m ∈ p.moves, m.HoldsByState) ∧
  (∀ r : RoomId, (p.room r).reservations = (p.moves.filter fun m =>
    decide ((m.state = .released ∨ m.state = .picked) ∧ m.dest = .room r)).length) ∧
  ∀ d : DoorId, (p.door d).lane.toList = (p.moves.filter fun m => m.lanes.contains d).map (·.tag)

/-- The pallets in a room and the places reserved there are together within its capacity (R6, R20, R103). -/
def Part.CapacityKept (p : Part) : Prop :=
  ∀ r : RoomId, (p.room r).occupancy + (p.room r).reservations ≤ (p.roomSet r).capacity

/-- No more slots are held than the slot limit gives, and none in SETUP; no room has granted more doors than its
budget gives (R59, R62, R88). -/
def Part.GrantsWithinLimits (p : Part) : Prop :=
  p.slotsHeld ≤ p.store.plant.slotLimit ∧ (p.running = false → p.slotsHeld = 0) ∧
  ∀ r : RoomId, (p.room r).granted ≤ (p.roomSet r).doorBudget

/-! ### Doors -/

/-- The state of a door once its restraint or its qualified seal has a new value (R30, R34, R36, R37, R57): a closed
door stands in its rest state, and so does a waiting door whose sealed condition fails; an OPEN door without its seal
or its restraint is in BREACH, and a breach by the seal in NORMAL mode returns to OPEN with both. -/
def Door.stateAfterSeal (x : Door) (mode : SealMode) : DoorState :=
  match x.state with
  | .vacant | .docked | .sealed => x.restState
  | .waiting => if x.restState = .sealed then .waiting else x.restState
  | .opened => if x.engaged = true ∧ x.qualSeal = .good then .opened else .breach
  | .breach =>
    if x.cause = some .sealLoss ∧ mode = .normal ∧ x.qualSeal = .good ∧ x.engaged = true then .opened else .breach
  | .service => .service

/-! ### What a taking leaves behind -/

/-- A notice waits on a link, or the link's resync flag shows that its full queue has dropped one (R169, R170). -/
def Part.Told (p : Part) (l : Link) (n : Notice) : Prop := n ∈ (p.link l).notices ∨ (p.link l).resync = true

/-- An alarm of this kind and object is listed, unless the kind is masked or the list is full (R146, R147, R152). -/
def Part.Listed (p : Part) (k : Kind) (object : Nat) : Prop :=
  (p.route k).masked = true ∨ (∃ a ∈ p.alarms, a.kind = k ∧ a.object = object) ∨ Config.alarmCapacity ≤ p.alarms.length

/-- The alarm list shows the present truth of a level condition: its listed alarms carry it, a true one is listed
unless it is masked or settled or the list is full, and a false one is settled no more (R147, R148). That a true pair
neither listed nor settled is listed at an examination which finds no change is log entry 11's reading. -/
def Part.Shows (p : Part) (k : Kind) (object : Nat) : Prop :=
  (∀ a ∈ p.alarms, a.kind = k → a.object = object → a.cond = some (p.condition k object)) ∧
  (p.condition k object = true → (k, object) ∉ p.settled → p.Listed k object) ∧
  (p.condition k object = false → (k, object) ∉ p.settled)

/-- The alarm list shows the present truth of a coil's two conditions (R96, R97). -/
def Part.CoilShown (p : Part) (c : CoilId) : Prop :=
  p.Shows .defrostDeferred c.val ∧ p.Shows .defrostBlocked c.val

/-- The alarm list shows the present truth of a move's two conditions (R136). -/
def Part.MoveShown (p : Part) (t : Tag) : Prop := p.Shows .transitLong t ∧ p.Shows .moveStalled t

/-- Nothing is left to a release pass: no move is eligible while a truck is free (R122, R123). -/
def Part.NoMoveLeft (p : Part) : Prop :=
  p.trucks < p.store.floor.truckLimit → ∀ m ∈ p.moves, p.eligible m = false

/-- Nothing is left to a room's grant pass: a door waits for the hold or for the budget (R58, R59). -/
def Part.NoDoorLeft (p : Part) (r : RoomId) : Prop :=
  (p.room r).queue ≠ [] → (p.room r).hold = true ∨ (p.roomSet r).doorBudget ≤ (p.room r).granted

/-- Nothing is left to a room's quiet checks: no coil of it is in ARMED while it is quiet (R76). -/
def Part.NoArmedLeft (p : Part) (r : RoomId) : Prop :=
  ∀ c : CoilId, p.coilRoom c = some r → (p.coil c).phase = .armed → p.quiet r = false

/-- Nothing is left to the arbiter's pass: no coil of the DUE queue is eligible while a slot is free (R90, R91). -/
def Part.NoCoilLeft (p : Part) : Prop :=
  p.slotsHeld < p.store.plant.slotLimit → ∀ c ∈ p.due, p.slotEligible c = false

/-! ### Fields of a record (R183) -/

/-- An unsigned field of some bytes, the high byte first. -/
def unsignedField (size n : Nat) : List Byte :=
  (List.range size).reverse.map fun i => BitVec.ofNat 8 (n / 256 ^ i)

/-- A signed field of some bytes, in two's complement. -/
def signedField (size : Nat) (v : Int) : List Byte := unsignedField size (v % 256 ^ size).toNat

/-- An enumeration, numbered from 0 in the order its rule lists it. -/
def enumField {α : Type} [DecidableEq α] (order : List α) (a : α) : List Byte := unsignedField 1 (order.idxOf a)

/-- Bits of one byte, the first of them bit 0. -/
def bitField (bits : List Bool) : List Byte := [(BitVec.ofBoolListLE bits).setWidth 8]

/-- A room, door or coil number, or 0xFF for none. -/
def numberField : Option Nat → List Byte
  | some n => unsignedField 1 n
  | none => [0xFF#8]

/-- A location: its kind byte and its number byte. -/
def locField : Loc → List Byte
  | .room r => [0#8, BitVec.ofNat 8 r.val]
  | .trailer d => [1#8, BitVec.ofNat 8 d.val]
  | .transit => [2#8, 0#8]

/-- A profile segment: bit 7 the sign, bits 0..5 the magnitude; 0 as 0x00 (log entry 37). -/
def segmentField (v : Int) : Byte := BitVec.ofNat 8 (if v < 0 then 128 + (-v).toNat else v.toNat)

/-- Some bytes are a record of this size with these fields at their offsets (R182). -/
def Laid (bytes : List Byte) (size : Nat) (fields : List (Nat × List Byte)) : Prop :=
  bytes.length = size ∧ ∀ e ∈ fields, (bytes.drop e.1).take e.2.length = e.2

/-! ### Settings and permissions -/

/-- What one carried setting, by its number and value, makes of the settings of a group (R184). -/
def settingGiven {σ : Type} (rule : ItemRule σ) (x : σ) (n : Nat) (v : Int) : Option σ := (rule n v).map fun f => f x

/-- A value within a range gives these settings, any other none (R184). -/
def within {σ : Type} (lo hi v : Int) (y : σ) : Option σ := if lo ≤ v ∧ v ≤ hi then some y else none

/-- The one link that may send a runtime report or request in RUN, by its message kind (R166, R167). -/
def runtimeLink (msg : Byte) : Option Link :=
  if 0x01 ≤ msg.toNat ∧ msg.toNat ≤ 0x06 then some .plant
  else if 0x07 ≤ msg.toNat ∧ msg.toNat ≤ 0x0E then some .dock
  else if 0x0F ≤ msg.toNat ∧ msg.toNat ≤ 0x14 then some .floor
  else none

/-! ### Takings -/

/-- A link has a place for one more answer, so that a request that completes on it is taken (R163). -/
def Part.hasPlace (p : Part) (l : Link) : Prop := (p.link l).answers.length < Config.answerCapacity

/-- The state once a taking that left the part at q has been answered and the free lines have begun their next
frames (R163, R168). -/
def State.answered (s : State) (q : Part) (l : Link) (msg ft : Byte) (code : AnswerCode) (result : List Byte) : State :=
  { s with part := (q.answer l msg ft { code := code, result := result }).startSending }

/-- The state once an event that is no request has left the part at q, and the free lines have begun their next
frames (R168). -/
def State.after (s : State) (q : Part) : State := { s with part := q.startSending }

/-- The state a command leaves; the state as it is where it stops. -/
def State.taking (s : State) (i : Instr) : State :=
  match exec i s with
  | .next t => t
  | _ => s

/-- The state once a link has received some characters, one after another. -/
def State.receiving (s : State) (l : Link) (bytes : List Byte) : State :=
  bytes.foldl (fun t b => t.taking (.characterReceived l b)) s

end Sys2Proof.Machine
end

