-- ==== Sys2Proof/Certificates/Slice0/Obligations.lean ====
section
/-! DEFINITION. The statements for the provers: what each command does, what every step keeps, and how requests stand
on the wire. Each is a proposition; OBLIGATIONS.json gives its title, its tier and the sections it rests on. -/

open Sys2Proof Sys2Proof.Machine

/-- A step takes the command at the front of the queue. When c is the first waiting command, a step is exec of c on
the state with the rest of the queue left waiting; with no command waiting, a step leaves the state as it is. The
queue is the model's (log entry 1). -/
def Obligations.StepTakesTheFrontCommand : Prop :=
  (∀ (c : Instr) (rest : List Instr) (s : State), s.pending = c :: rest → step s = exec c { s with pending := rest }) ∧
  ∀ s : State, s.pending = [] → step s = .next s

/-- Every command ends in a next state, with the waiting commands as they were (the model's queue). For every command
and every state, exec answers a next state that differs from the state in the part alone. The queue of waiting
commands, which exec leaves as it is, is the model's own (log entry 1; for PIN_RESET log entry 25). That every command
completes rests on the manual, which lets nothing stop the part, and for two sorts of command on the model's choice:
the steps inside other steps taken by themselves (log entry 3), and a request command with a number of items that no
frame carries, which changes nothing (log entry 14). -/
def Obligations.EveryCommandCompletes : Prop :=
  ∀ (c : Instr) (s : State), ∃ q : Part, exec c s = .next { s with part := q }

/-- The reset state is the pin-reset state, and a pin reset puts the whole part there from any state. After reset the
mode is SETUP, no group is locked, the counters are 0, every table, queue and list is empty, every room, door and coil
has its pin-reset record, every room, door, coil, plant, floor and class setting its pin-reset value, every route is
masked with the kind number as its code, no copy link, LEVEL mode for a level kind and EDGE mode for an edge kind, and
as its acknowledging link the dock link for kinds 1 to 3, the plant link for kinds 4 to 10 and the floor link for
kinds 11 to 13, and every link hunts with nothing queued, sent or owed. From every state PIN_RESET answers the state
whose part is that of the reset state; the commands that wait outside the part stay waiting (the model's choice, log
entry 25). -/
def Obligations.ResetIsThePinResetState : Prop :=
  State.reset.part.running = false ∧ (∀ g, State.reset.part.locked g = false) ∧
  State.reset.part.time.runSeconds = 0 ∧ State.reset.part.time.day = 0 ∧ State.reset.part.time.second = 0 ∧
  State.reset.part.due = [] ∧ State.reset.part.pallets = [] ∧ State.reset.part.moves = [] ∧
  State.reset.part.trucks = 0 ∧ State.reset.part.dirRun = { dir := none, len := 0 } ∧
  State.reset.part.alarms = [] ∧ State.reset.part.settled = [] ∧ State.reset.pending = [] ∧
  (∀ r, State.reset.part.room r =
    { f16 := 0, f := 0, seeded := false, last := .absent, clamped := false, staleCount := 0, stale := false,
      declared := false, qualifyCount := 0, exposure := 0, reached := false, occupancy := 0, reservations := 0,
      openDoors := 0, granted := 0, hold := false, queue := [] }) ∧
  (∀ d, State.reset.part.door d =
    { state := .vacant, trailer := false, reading := none, engaged := false, rawSeal := .lost, qualSeal := .lost,
      sealCount := 0, isOpen := false, cause := none, openStart := none, captured := none, openLong := false,
      owed := none, sent := false, lane := none, lastOpen := none }) ∧
  (∀ c, State.reset.part.coil c =
    { phase := .cooling, phaseMinutes := 0, waitMinutes := 0, armMinutes := 0, dueStamp := none,
      stagedInterval := none, stagedMax := none, slot := false, lastStop := none }) ∧
  (∀ r, State.reset.part.roomSet r =
    { role := .store, cls := .frozen, alarmLimit := -150, recoverLimit := -170, filterWeight := 4, sampleOffset := 0,
      staleLimit := 300, staleBias := 20, qualify := 120, doorBudget := 2, capacity := 0, exposureBudget := 36000 }) ∧
  (∀ d, State.reset.part.doorSet d =
    { innerRoom := none, openLimit := 600, sealQualify := 5, sealMode := .normal, autoClose := false, span := 60,
      segments := #v[0, 0, 0, 0, 0, 0, 0, 0] }) ∧
  (∀ c, State.reset.part.coilSet c =
    { room := none, role := .alone, interval := 480, defrostMax := 30, drip := 5, recoverTime := 30 }) ∧
  State.reset.part.store.plant =
    { slotLimit := 1, windowStart := 0, windowEnd := 0, deferLimit := 120, forceLimit := 240, armLimit := 15 } ∧
  State.reset.part.store.floor =
    { transitRoom := none, quarantineRoom := none, transitOffset := 0, truckLimit := 4, share := 3, pickLimit := 300,
      transitLimit := 600, stallLimit := 1800 } ∧
  State.reset.part.store.classes = #v[⟨-250, 18000⟩, ⟨-180, 24000⟩, ⟨40, 12000⟩, ⟨120, 12000⟩] ∧
  (∀ k, (State.reset.part.route k).masked = true ∧ (State.reset.part.route k).code = kindNumber k ∧
    (State.reset.part.route k).copies = 0#3 ∧
    (State.reset.part.route k).ack = (if kindNumber k ≤ 3 then Link.dock
      else if kindNumber k ≤ 10 then Link.plant else Link.floor) ∧
    (State.reset.part.route k).mode = (if k.isLevel then ReportMode.level else ReportMode.edge)) ∧
  (∀ l, State.reset.part.link l =
    { rx := .hunting, answers := [], notices := [], resync := false, sending := none }) ∧
  (∀ l, State.reset.part.change l = { doors := 0#16, rooms := 0#8, coils := 0#12 }) ∧
  ∀ s : State, exec .pinReset s = .next { s with part := State.reset.part }

/-- A second event advances the run seconds and the clock and issues the tick and the minute event. For every state
SECOND_EVENT completes: the run seconds rise by one or stay at their top, the clock goes a second on with its two
wraps, the tick is issued at the multiples of 10 and the minute event at the multiples of 60 of the new count; mode,
locks, every setting but the coils' own, and every room's F16, F, seeded flag and occupancy stay; in SETUP nothing but
the time base changes. The two issue fields are the model's (log entry 2). -/
def Obligations.SecondEventAdvancesTheTimeBase : Prop :=
  ∀ s : State, ∃ q : Part, exec .secondEvent s = .next (s.after q) ∧
    q.time.runSeconds =
      (if s.part.time.runSeconds < 4294967295 then s.part.time.runSeconds + 1 else s.part.time.runSeconds) ∧
    (s.part.time.second + 1 < 86400 → q.time.second = s.part.time.second + 1 ∧ q.time.day = s.part.time.day) ∧
    (86400 ≤ s.part.time.second + 1 → q.time.second = 0 ∧
      q.time.day = if s.part.time.day < 65535 then s.part.time.day + 1 else 0) ∧
    (q.time.tickIssued = true ↔ q.time.runSeconds % 10 = 0) ∧
    (q.time.minuteIssued = true ↔ q.time.runSeconds % 60 = 0) ∧
    q.store.mode = s.part.store.mode ∧ q.store.locks = s.part.store.locks ∧ q.store.rooms = s.part.store.rooms ∧
    q.store.doors = s.part.store.doors ∧ q.store.plant = s.part.store.plant ∧ q.store.floor = s.part.store.floor ∧
    q.store.classes = s.part.store.classes ∧ q.store.routes = s.part.store.routes ∧
    (∀ r, (q.room r).f16 = (s.part.room r).f16 ∧ (q.room r).f = (s.part.room r).f ∧
      (q.room r).seeded = (s.part.room r).seeded ∧ (q.room r).occupancy = (s.part.room r).occupancy) ∧
    (s.part.running = false → q = { s.part with time := q.time })

/-- A second event of RUN steps every room's stale count and over-temperature qualification. In RUN, with no tick or
minute event outstanding, every room's record after the second event is its record before with the stale count
advanced, the stale flag set at the stale limit, and the declared state and qualify counter moved by the table of R14,
the direct rule of R15 and the suppression of R16; nothing else of the room's facts changes. Where the stale flag or
the declared state is another, the alarm list shows the present truth of ROOM SENSOR STALE or ROOM OVER TEMP. -/
def Obligations.SecondEventAtEveryRoom : Prop :=
  ∀ (s : State) (r : RoomId), s.part.running = true → s.part.time.tickIssued = false →
    s.part.time.minuteIssued = false →
    ∃ q : Part, exec .secondEvent s = .next (s.after q) ∧
      let x := s.part.room r
      let y := s.part.roomSet r
      let count := if x.staleCount < 65535 then x.staleCount + 1 else x.staleCount
      let raw : Bool := x.seeded && decide (y.alarmLimit < x.f)
      let suppressed : Bool := allCoils.any fun c => s.part.coilRoom c == some r &&
        ((s.part.coil c).phase == .defrost || (s.part.coil c).phase == .drip || (s.part.coil c).phase == .recover)
      let held : Bool := !x.declared && raw && suppressed
      let staleNow : Bool := x.stale || decide (y.staleLimit ≤ count)
      (q.room r).facts = Room.facts
        (if y.qualify = 0 then
          { x with staleCount := count, stale := staleNow, qualifyCount := 0, declared := raw && !held }
        else if x.declared = raw then { x with staleCount := count, stale := staleNow, qualifyCount := 0 }
        else if held then { x with staleCount := count, stale := staleNow }
        else if y.qualify ≤ x.qualifyCount + 1 then
          { x with staleCount := count, stale := staleNow, qualifyCount := 0, declared := raw }
        else { x with staleCount := count, stale := staleNow, qualifyCount := x.qualifyCount + 1 }) ∧
      ((q.room r).stale = x.stale ∨ q.Shows .roomSensorStale r.val) ∧
      ((q.room r).declared = x.declared ∨ q.Shows .roomOverTemp r.val)

/-- A second event of RUN steps every door's seal counter and its open timing. In RUN, with no tick or minute event
outstanding, a door not in SERVICE whose raw and qualified seals differ advances its seal counter, and at the seal
qualify time the qualified seal takes the raw value with the counter at 0, and the door's state follows it; every
other door keeps both and its state, and no door changes in another physical field. A door in OPEN or BREACH keeps its
open start, and its open-long flag is yes exactly where its open seconds are then at or above its open limit; every
other door keeps its flag. With the flag yes and auto-close on, such a door that owes no close order and has sent none
owes OPEN LONG. An order that a door in an open state then owes has been sent, as a CLOSE ORDER on the dock link (or
the resync flag shows that its queue was full), or it is still owed, a new one with the lane held; a door that then
owes none sends none. Where the door has come into BREACH or left it, or its open-long flag is another, the alarm list
shows the present truth of DOOR SEAL LOST or DOOR OPEN LONG. An absent open start reads as now (log entry 22). -/
def Obligations.SecondEventAtEveryDoor : Prop :=
  ∀ (s : State) (d : DoorId), s.part.running = true → s.part.time.tickIssued = false →
    s.part.time.minuteIssued = false →
    ∃ q : Part, exec .secondEvent s = .next (s.after q) ∧
      let x := s.part.door d
      let counts := x.state ≠ .service ∧ x.rawSeal ≠ x.qualSeal
      let qualifies := counts ∧ (s.part.doorSet d).sealQualify ≤ x.sealCount + 1
      let qualified : Door := { x with qualSeal := x.rawSeal, sealCount := 0 }
      let long := decide ((s.part.doorSet d).openLimit ≤ q.now - x.openStart.getD q.now)
      let due := if x.owed = none ∧ x.sent = false ∧ long = true ∧ (s.part.doorSet d).autoClose = true
        then some CloseReason.openLong else x.owed
      (q.door d).facts = Door.facts
        (if qualifies then qualified else if counts then { x with sealCount := x.sealCount + 1 } else x) ∧
      (q.door d).state = (if qualifies then qualified.stateAfterSeal (s.part.doorSet d).sealMode else x.state) ∧
      (¬ (x.state = .opened ∨ x.state = .breach) → (q.door d).openLong = x.openLong) ∧
      (((q.door d).state = .breach ↔ x.state = .breach) ∨ q.Shows .doorSealLost d.val) ∧
      ((q.door d).openLong = x.openLong ∨ q.Shows .doorOpenLong d.val) ∧
      (x.state = .opened ∨ x.state = .breach →
        (q.door d).openLong = long ∧ (q.door d).openStart = x.openStart ∧
        (due = none → (q.door d).owed = none ∧ (q.door d).sent = x.sent) ∧
        ∀ reason, due = some reason →
          ((q.door d).owed = none ∧ (q.door d).sent = true ∧
            (.closeOrder d reason ∈ (q.link .dock).notices ∨ (q.link .dock).resync = true)) ∨
          ((q.door d).owed = some reason ∧ (q.door d).sent = x.sent ∧ (x.owed = none → (q.door d).lane ≠ none)))

/-- An exposure tick of RUN adds to every room's and every pallet's account. In RUN, with a tick issued and the
pallets' tags distinct, EXPOSURE_TICK takes the tick: every seeded room adds the excess of its room temperature over
its alarm limit and sets its reached flag at its budget; every pallet, in its place in the table, stores its location
temperature, adds the excess over its class limit, and is in breach once its account meets its budget; both accounts
stay at 9,999,999. A room that so reaches its budget has its ROOM EXPOSURE alarm listed, a pallet that so comes into
breach its PALLET BREACH. That the tick waits as an issue field, which its taking clears, is the model's (log entry
2). -/
def Obligations.ExposureTickAtEveryAccount : Prop :=
  ∀ s : State, s.part.running = true → s.part.time.tickIssued = true → s.part.TablesInRange →
    ∃ q : Part, exec .exposureTick s = .next (s.after q) ∧ q.time = { s.part.time with tickIssued := false } ∧
      (∀ r,
        let x := s.part.room r
        let y := s.part.roomSet r
        let t := clampTemp (if x.stale then x.f + y.staleBias else x.f)
        let e := if x.seeded then min 9999999 (x.exposure + (t - y.alarmLimit).toNat) else x.exposure
        (q.room r).facts = Room.facts
          { x with exposure := e, reached := x.reached || (x.seeded && decide (y.exposureBudget ≤ e)) } ∧
        (x.reached = false → x.seeded = true → y.exposureBudget ≤ e → q.Listed .roomExposure r.val)) ∧
      (∀ x ∈ q.pallets, x.breached = true →
        (∃ y ∈ s.part.pallets, y.tag = x.tag ∧ y.breached = true) ∨ q.Listed .palletBreach x.tag) ∧
      q.pallets.map Pallet.facts = s.part.pallets.map fun x =>
        let t := s.part.locTemp x.loc
        let e := min 9999999 (x.exposure + (t - (s.part.classRow x.cls).limit).toNat)
        Pallet.facts { x with lastTemp := some t, exposure := e, breached := x.breached || decide (x.budget ≤ e) }

/-- The location temperature of a pallet in every location, and the apron offset of a door. The offset of a door in
OPEN or BREACH is its segment at the open seconds divided by the span, at most segment 7, times 5; in every other
state it is 0; it lies within -315..+315 where the segments are in their range, and an opening of eight spans or more
stays at segment 7 (R47). The location temperature is the sum, clamped to -500..+500, of the base and what is added to
it (R109): in ROOM r the room's F, and its stale bias while it is stale; in TRANSIT the transit room's F, its stale
bias while it is stale, and the transit offset; in TRAILER d the trailer reading and the door's apron offset; without
a reading the F of the door's inner room, that room's stale bias while it is stale, and the apron offset. Two values
are the model's choice, for states that no run reaches (log entry 22): an absent open start reads as now, and a
setting that names no room gives a base of 0. -/
def Obligations.LocationTemperatureWithTheApron : Prop :=
  (∀ (p : Part) (d : DoorId) (i : Fin 8), ((p.door d).state = .opened ∨ (p.door d).state = .breach) →
    min 7 ((p.now - (p.door d).openStart.getD p.now) / (p.doorSet d).span) = i.val →
    apronOffset (p.door d) (p.doorSet d) p.now = (p.doorSet d).segments[i] * 5) ∧
  (∀ (p : Part) (d : DoorId), (p.door d).state ≠ .opened → (p.door d).state ≠ .breach →
    apronOffset (p.door d) (p.doorSet d) p.now = 0) ∧
  (∀ (x : Door) (y : DoorSettings) (now : Nat), (∀ i : Fin 8, -63 ≤ y.segments[i] ∧ y.segments[i] ≤ 63) →
    -315 ≤ apronOffset x y now ∧ apronOffset x y now ≤ 315) ∧
  (∀ (p : Part) (d : DoorId), 0 < (p.doorSet d).span →
    8 * (p.doorSet d).span ≤ p.now - (p.door d).openStart.getD p.now → (p.door d).state = .opened →
    apronOffset (p.door d) (p.doorSet d) p.now = (p.doorSet d).segments[7] * 5) ∧
  (∀ (p : Part) (r : RoomId),
    p.locTemp (.room r) = max (-500) (min 500
      ((p.room r).f + (if (p.room r).stale then ((p.roomSet r).staleBias : Int) else 0)))) ∧
  (∀ (p : Part) (r : RoomId), p.store.floor.transitRoom = some r →
    p.locTemp .transit = max (-500) (min 500
      ((p.room r).f + (if (p.room r).stale then ((p.roomSet r).staleBias : Int) else 0) +
        p.store.floor.transitOffset))) ∧
  (∀ (p : Part) (d : DoorId) (reading : Int), (p.door d).reading = some reading →
    p.locTemp (.trailer d) = max (-500) (min 500 (reading + apronOffset (p.door d) (p.doorSet d) p.now))) ∧
  (∀ (p : Part) (d : DoorId) (r : RoomId), (p.door d).reading = none → p.inner d = some r →
    p.locTemp (.trailer d) = max (-500) (min 500
      ((p.room r).f + (if (p.room r).stale then ((p.roomSet r).staleBias : Int) else 0) +
        apronOffset (p.door d) (p.doorSet d) p.now))) ∧
  (∀ p : Part, p.store.floor.transitRoom = none →
    p.locTemp .transit = max (-500) (min 500 p.store.floor.transitOffset)) ∧
  ∀ (p : Part) (d : DoorId), (p.door d).reading = none → p.inner d = none →
    p.locTemp (.trailer d) = max (-500) (min 500 (apronOffset (p.door d) (p.doorSet d) p.now))

/-- A minute event of RUN steps every coil by its phase. In RUN, with a minute event issued, no tick outstanding and
the DUE queue matching the coil table, MINUTE_EVENT takes the minute. A coil in OFF stays as it is. A coil in COOLING
that no co-start can reach (it is no FOLLOW coil, or no slot is free and none can return) has one phase minute more,
and keeps its record while that is below its cooling interval or the interval is 0; at its interval it goes to DUE
with the present stamp and a wait of 0, from where the pass may arm it and send it on; where no slot is free and none
can return it stands in DUE with 0 phase minutes. A coil in DUE has one wait minute more and nothing else while it
stays in DUE, as it does where no slot is free and none can return. A coil in ARMED has one wait minute and one arm
minute more. A coil in DEFROST, DRIP or RECOVER has one phase minute more and keeps its record while that is below its
time; at its time a coil in DEFROST overruns (to DRIP, or to RECOVER with its slot returned when the drip time is 0),
a coil in DRIP goes to RECOVER with its slot returned, and a coil in RECOVER goes to COOLING with its staged interval
applied, from where a FOLLOW coil alone may be taken on. Every counter stays at 65535. The two conditions of every
coil are examined: the alarm list shows the present truth of DEFROST DEFERRED and DEFROST BLOCKED of each (log entry
11). The arbiter's pass follows: no eligible coil is left waiting beside a free slot. That the minute event waits as
an issue field, which its taking clears, is the model's (log entry 2); that a coil changed by an earlier coil's step
takes its one step in the phase it then holds is the model's reading (log entry 5). -/
def Obligations.MinuteEventAtATimedCoil : Prop :=
  ∀ (s : State) (c : CoilId), s.part.running = true → s.part.time.minuteIssued = true →
    s.part.time.tickIssued = false → s.part.DueQueueMatches →
    ∃ q : Part, exec .minuteEvent s = .next (s.after q) ∧ q.time = { s.part.time with minuteIssued := false } ∧
      (∀ e, q.CoilShown e) ∧ q.NoCoilLeft ∧
      let x := s.part.coil c
      let y := s.part.coilSet c
      let more : Nat → Nat := fun n => if n < 65535 then n + 1 else n
      let m := more x.phaseMinutes
      let noSlot := s.part.store.plant.slotLimit ≤ s.part.slotsHeld ∧
        ∀ e, (s.part.coil e).phase ≠ .defrost ∧ (s.part.coil e).phase ≠ .drip
      (x.phase = .off → q.coil c = x) ∧
      (x.phase = .cooling → (y.role ≠ .follow ∨ noSlot) → (y.interval = 0 ∨ m < y.interval) →
        q.coil c = { x with phaseMinutes := m }) ∧
      (x.phase = .cooling → (y.role ≠ .follow ∨ noSlot) → y.interval ≠ 0 → y.interval ≤ m →
        ((q.coil c).phase = .due ∨ (q.coil c).phase = .armed ∨ (q.coil c).phase = .defrost) ∧
        (q.coil c).dueStamp = some s.part.now ∧ (q.coil c).waitMinutes = 0) ∧
      (x.phase = .cooling → noSlot → y.interval ≠ 0 → y.interval ≤ m →
        q.coil c = { x with phase := .due, phaseMinutes := 0, waitMinutes := 0, dueStamp := some s.part.now }) ∧
      (x.phase = .due → ((q.coil c).phase = .due ∨ noSlot) →
        q.coil c = { x with waitMinutes := more x.waitMinutes }) ∧
      (x.phase = .armed →
        q.coil c = { x with waitMinutes := more x.waitMinutes, armMinutes := more x.armMinutes }) ∧
      (x.phase = .defrost → m < y.defrostMax → q.coil c = { x with phaseMinutes := m }) ∧
      (x.phase = .defrost → y.defrostMax ≤ m → y.drip ≠ 0 →
        q.coil c = { x with phase := .drip, phaseMinutes := 0, lastStop := some .overrun }) ∧
      (x.phase = .defrost → y.defrostMax ≤ m → y.drip = 0 →
        q.coil c = { x with phase := .recover, phaseMinutes := 0, lastStop := some .overrun, slot := false }) ∧
      (x.phase = .drip → m < y.drip → q.coil c = { x with phaseMinutes := m }) ∧
      (x.phase = .drip → y.drip ≤ m → q.coil c = { x with phase := .recover, phaseMinutes := 0, slot := false }) ∧
      (x.phase = .recover → m < y.recoverTime → q.coil c = { x with phaseMinutes := m }) ∧
      (x.phase = .recover → y.recoverTime ≤ m → (q.coil c).phase ≠ .recover ∧
        (q.coilSet c).interval = x.stagedInterval.getD y.interval) ∧
      (x.phase = .recover → y.recoverTime ≤ m → y.role ≠ .follow →
        q.coil c = { x with phase := .cooling, phaseMinutes := 0, stagedInterval := none })

/-- The stale, over-temperature, exposure, open-long, close-order and condition steps take their effect. In RUN, where
the test of its rule holds, each of these steps taken by itself (the model's reading of such a command, log entry 3)
has the effect of its rule and no other: the stale flag set, the room marked and the level condition handed on; the
declared state taking the raw condition with the counter at 0; the reached flag set and the event raised; the
open-long flag set, the condition handed on and, with auto-close on, the close order owed; an owed close order sent
where the lane is empty; the present truth of DEFROST DEFERRED and DEFROST BLOCKED of a coil (R96, R97) and of TRANSIT
LONG and MOVE STALLED of a move in the queue (R136) handed to the alarm block. With a qualify time of 0 the declared
state follows the raw condition directly, but for a suppressed room that is not declared, and the counter is 0 (R15,
R16). That an examination hands on the present truth, changed or not, is the model's reading (log entry 11). -/
def Obligations.InnerStepsTakeTheirEffect : Prop :=
  ∀ (s : State) (r : RoomId) (d : DoorId) (c : CoilId) (t : Tag) (m : Move), s.part.running = true →
    ((s.part.roomSet r).staleLimit ≤ (s.part.room r).staleCount → (s.part.room r).stale = false →
      exec (.roomSensorStale r) s = .next (s.after
        (((s.part.updRoom r fun x => { x with stale := true }).markRoom r).levelTrue .roomSensorStale r.val))) ∧
    ((s.part.roomSet r).qualify ≠ 0 → (s.part.roomSet r).qualify ≤ (s.part.room r).qualifyCount →
      (s.part.room r).declared = true → (s.part.room r).raw (s.part.roomSet r) = false →
      exec (.roomOverTemp r) s = .next (s.after
        ((((s.part.updRoom r fun x => { x with declared := false }).markRoom r).levelFalse .roomOverTemp
          r.val).updRoom r fun x => { x with qualifyCount := 0 }))) ∧
    ((s.part.roomSet r).qualify ≠ 0 → (s.part.roomSet r).qualify ≤ (s.part.room r).qualifyCount →
      (s.part.room r).declared = false → (s.part.room r).raw (s.part.roomSet r) = true →
      s.part.suppressed r = false →
      exec (.roomOverTemp r) s = .next (s.after
        ((((s.part.updRoom r fun x => { x with declared := true }).markRoom r).levelTrue .roomOverTemp
          r.val).updRoom r fun x => { x with qualifyCount := 0 }))) ∧
    ((s.part.roomSet r).qualify = 0 →
      (s.part.room r).declared = true → (s.part.room r).raw (s.part.roomSet r) = false →
      exec (.roomOverTemp r) s = .next (s.after
        (((s.part.updRoom r fun x => { x with declared := false, qualifyCount := 0 }).markRoom r).levelFalse
          .roomOverTemp r.val))) ∧
    ((s.part.roomSet r).qualify = 0 →
      (s.part.room r).declared = false → (s.part.room r).raw (s.part.roomSet r) = true →
      s.part.suppressed r = false →
      exec (.roomOverTemp r) s = .next (s.after
        (((s.part.updRoom r fun x => { x with declared := true, qualifyCount := 0 }).markRoom r).levelTrue
          .roomOverTemp r.val))) ∧
    ((s.part.roomSet r).qualify = 0 →
      ((s.part.room r).declared = (s.part.room r).raw (s.part.roomSet r) ∨
        ((s.part.room r).declared = false ∧ s.part.suppressed r = true)) →
      exec (.roomOverTemp r) s = .next (s.after (s.part.updRoom r fun x => { x with qualifyCount := 0 }))) ∧
    ((s.part.room r).seeded = true → (s.part.room r).reached = false →
      (s.part.roomSet r).exposureBudget ≤ (s.part.room r).exposure →
      exec (.roomExposure r) s = .next (s.after
        ((s.part.updRoom r fun x => { x with reached := true }).raiseEdge .roomExposure r.val))) ∧
    (((s.part.door d).state = .opened ∨ (s.part.door d).state = .breach) → (s.part.door d).openLong = false →
      (s.part.doorSet d).openLimit ≤ s.part.now - (s.part.door d).openStart.getD s.part.now →
      exec (.doorOpenLong d) s = .next (s.after
        (if (s.part.doorSet d).autoClose then
          ((s.part.updDoor d fun x => { x with openLong := true }).levelTrue .doorOpenLong d.val).owe .openLong d
        else (s.part.updDoor d fun x => { x with openLong := true }).levelTrue .doorOpenLong d.val))) ∧
    (∀ reason, (s.part.door d).owed = some reason → (s.part.door d).lane = none →
      exec (.closeOrder d) s = .next (s.after
        ((s.part.updDoor d fun x => { x with owed := none, sent := true }).notify .dock (.closeOrder d reason)))) ∧
    exec (.defrostDeferred c) s = .next (s.after (s.part.handLevel .defrostDeferred c.val (decide
      (((s.part.coil c).phase = .due ∨ (s.part.coil c).phase = .armed) ∧ s.part.store.plant.deferLimit ≠ 0 ∧
        s.part.store.plant.deferLimit ≤ (s.part.coil c).waitMinutes)))) ∧
    exec (.defrostBlocked c) s = .next (s.after (s.part.handLevel .defrostBlocked c.val (decide
      ((s.part.coil c).phase = .armed ∧ s.part.store.plant.armLimit ≠ 0 ∧
        s.part.store.plant.armLimit ≤ (s.part.coil c).armMinutes)))) ∧
    (s.part.move? t = some m →
      exec (.transitLong t) s = .next (s.after (s.part.handLevel .transitLong t (decide
        (m.state = .picked ∧ s.part.store.floor.transitLimit ≤ s.part.now - m.stateStamp))))) ∧
    (s.part.move? t = some m →
      exec (.moveStalled t) s = .next (s.after (s.part.handLevel .moveStalled t (decide
        (m.state = .queued ∧ s.part.store.floor.stallLimit ≤ s.part.now - m.stateStamp)))))

/-- A qualified seal moves the door by the table of its states. In RUN, where a door not in SERVICE has a raw seal
that differs from its qualified seal and a counter at the seal qualify time, SEAL_QUALIFICATION (taken by itself, log
entry 3) gives the qualified seal the raw value and the counter 0, and the door's state follows: a closed door takes
its rest state, a waiting door that is no longer sealed takes its rest state, an OPEN door without its seal or
restraint goes to BREACH with cause SEAL, a breach by the seal in NORMAL mode returns to OPEN. A waiting door that
falls away is told of by REQUEST DROPPED (SEAL LOST) on the dock link, the move of the lane of a door that breaches or
returns by MOVE HOLD or MOVE RESUME on the floor link. At the entry to BREACH and at the return to OPEN the alarm list
shows the present truth of DOOR SEAL LOST; after a change of the door's state no move that could be released is left.
No coil, setting, queue of coils or other door's state changes, and no other fact does. -/
def Obligations.SealQualificationOfADoor : Prop :=
  ∀ (s : State) (d : DoorId), s.part.running = true → (s.part.door d).state ≠ .service →
    (s.part.door d).rawSeal ≠ (s.part.door d).qualSeal → (s.part.doorSet d).sealQualify ≤ (s.part.door d).sealCount →
    ∃ q : Part, exec (.sealQualification d) s = .next (s.after q) ∧
      let x : Door := { s.part.door d with qualSeal := (s.part.door d).rawSeal, sealCount := 0 }
      (q.door d).state = x.stateAfterSeal (s.part.doorSet d).sealMode ∧
      ((s.part.door d).state = .opened → (q.door d).state = .breach → (q.door d).cause = some .sealLoss) ∧
      ((s.part.door d).state = .breach → (q.door d).state = .opened → (q.door d).cause = none) ∧
      ((s.part.door d).state = .waiting → (q.door d).state ≠ .waiting → q.Told .dock (.requestDropped d .sealLost)) ∧
      (∀ t, (s.part.door d).lane = some t →
        ((s.part.door d).state = .opened → (q.door d).state = .breach → q.Told .floor (.moveHold t d)) ∧
        ((s.part.door d).state = .breach → (q.door d).state = .opened → q.Told .floor (.moveResume t d))) ∧
      (((q.door d).state = .breach ↔ (s.part.door d).state = .breach) ∨ q.Shows .doorSealLost d.val) ∧
      ((q.door d).state = (s.part.door d).state ∨ q.NoMoveLeft) ∧
      q.facts = (s.part.updDoor d fun _ => x).facts ∧ q.coils = s.part.coils ∧ q.due = s.part.due ∧
      q.store = s.part.store ∧ ∀ e, e ≠ d → (q.door e).state = (s.part.door e).state

/-- The cooling, overrun, drip and recovery steps of a coil take their effect. In RUN, with the DUE queue matching the
coil table, each of these steps taken by itself (log entry 3) where its compare holds: a coil in COOLING enters DUE
with its stamp and a wait of 0 (the pass may arm it at once); a coil in DEFROST overruns; a coil in DRIP goes to
RECOVER and returns its slot; a coil in RECOVER goes to COOLING with its staged interval applied. An overrun is told
of by DEFROST STOP (OVERRUN) and its alarm, the way to RECOVER by COOL RESUME, the failed recovery by its alarm. Where
a coil entered DUE or returned its slot, no eligible coil is left waiting beside a free slot. After each change of
phase the alarm list shows the present truth of the coil's DEFROST DEFERRED and DEFROST BLOCKED (log entry 11). The
facts stay. -/
def Obligations.CoilTimerSteps : Prop :=
  ∀ (s : State) (c : CoilId), s.part.running = true → s.part.DueQueueMatches →
    let x := s.part.coil c
    let y := s.part.coilSet c
    (x.phase = .cooling → y.interval ≠ 0 → y.interval ≤ x.phaseMinutes →
      ∃ q : Part, exec (.coolingInterval c) s = .next (s.after q) ∧ q.facts = s.part.facts ∧ q.CoilShown c ∧
        ((q.coil c).phase = .due ∨ (q.coil c).phase = .armed ∨ (q.coil c).phase = .defrost) ∧
        (q.coil c).dueStamp = some s.part.now ∧ (q.coil c).waitMinutes = 0 ∧ q.NoCoilLeft) ∧
    (x.phase = .defrost → y.defrostMax ≤ x.phaseMinutes →
      ∃ q : Part, exec (.defrostOverrun c) s = .next (s.after q) ∧ q.facts = s.part.facts ∧ q.CoilShown c ∧
        q.Told .plant (.defrostStop c .overrun) ∧ q.Listed .defrostOverrun c.val ∧
        (y.drip = 0 → q.Told .plant (.coolResume c) ∧ q.NoCoilLeft) ∧
        q.coil c = (if y.drip = 0 then
          { x with phase := .recover, phaseMinutes := 0, lastStop := some .overrun, slot := false }
          else { x with phase := .drip, phaseMinutes := 0, lastStop := some .overrun })) ∧
    (x.phase = .drip → y.drip ≤ x.phaseMinutes →
      ∃ q : Part, exec (.dripEnd c) s = .next (s.after q) ∧ q.facts = s.part.facts ∧ q.CoilShown c ∧
        q.Told .plant (.coolResume c) ∧ q.NoCoilLeft ∧
        q.coil c = { x with phase := .recover, phaseMinutes := 0, slot := false }) ∧
    (x.phase = .recover → y.recoverTime ≤ x.phaseMinutes →
      ∃ q : Part, exec (.recoveryFail c) s = .next (s.after q) ∧ q.facts = s.part.facts ∧ q.CoilShown c ∧
        q.Listed .recoveryFail c.val ∧
        q.coil c = { x with phase := .cooling, phaseMinutes := 0, stagedInterval := none } ∧
        (q.coilSet c).interval = x.stagedInterval.getD y.interval ∧ ∀ e, e ≠ c → q.coil e = s.part.coil e)

/-- What the alarm block does with a level condition. A condition that becomes true sets the condition now of a listed
entry and nothing else; without an entry it makes one at the tail, with repeat count 1 and the present stamp, where
the route is unmasked, the pair is not settled and the list is not full, and sends its notice to the acknowledging
link and the copy links; otherwise nothing changes. A condition that becomes false sets the condition now of a listed
entry and takes the pair out of the settled set. That a settled pair makes no entry is the model's reading of a
condition handed on again (log entry 11): R147 makes no such test, since a pair that becomes true is never settled at
that moment. -/
def Obligations.LevelConditionsAtTheAlarmBlock : Prop :=
  ∀ (p : Part) (k : Kind) (o : Nat),
    (∀ a, p.alarm? k o = some a → p.levelTrue k o = p.updAlarm k o fun x => { x with cond := some true }) ∧
    (p.alarm? k o = none → ((p.route k).masked = true ∨ p.isSettled k o = true ∨ 64 ≤ p.alarms.length) →
      p.levelTrue k o = p) ∧
    (p.alarm? k o = none → (p.route k).masked = false → p.isSettled k o = false → p.alarms.length < 64 →
      let a : Alarm := { kind := k, object := o, stamp := p.now, repeats := 1, cond := some true }
      (p.levelTrue k o).alarms = p.alarms ++ [a] ∧ (p.levelTrue k o).facts = p.facts ∧
      ∀ l, (p.levelTrue k o).link l =
        if l = (p.route k).ack ∨ (p.route k).copies.getLsbD (linkIndex l).val = true then
          (p.link l).queue (.alarm k (p.route k).code o 1 (some true) (l != (p.route k).ack) p.time.day p.time.second)
        else p.link l) ∧
    (p.levelFalse k o).alarms = p.alarms.map (fun x =>
      if x.kind = k ∧ x.object = o then { x with cond := some false } else x) ∧
    (∀ z, z ∈ (p.levelFalse k o).settled ↔ z ∈ p.settled ∧ z ≠ (k, o)) ∧
    (p.levelFalse k o).links = p.links ∧ (p.levelFalse k o).facts = p.facts

/-- What the alarm block does with an edge event. An event of a masked kind is lost; of an unmasked kind it raises the
repeat count of a listed entry, up to 255, or makes an entry with repeat count 1 where the list holds fewer than 64,
and is lost where it holds 64. A made or repeated entry sends its notice to the acknowledging link and the copy links,
with the count after the rise. -/
def Obligations.EdgeEventsAtTheAlarmBlock : Prop :=
  ∀ (p : Part) (k : Kind) (o : Nat),
    ((p.route k).masked = true → p.raiseEdge k o = p) ∧
    ((p.route k).masked = false → p.alarm? k o = none → 64 ≤ p.alarms.length → p.raiseEdge k o = p) ∧
    ((p.route k).masked = false → p.alarm? k o = none → p.alarms.length < 64 →
      (p.raiseEdge k o).alarms =
        p.alarms ++ [{ kind := k, object := o, stamp := p.now, repeats := 1, cond := none }] ∧
      ∀ l, (p.raiseEdge k o).link l =
        if l = (p.route k).ack ∨ (p.route k).copies.getLsbD (linkIndex l).val = true then
          (p.link l).queue (.alarm k (p.route k).code o 1 none (l != (p.route k).ack) p.time.day p.time.second)
        else p.link l) ∧
    (∀ a, (p.route k).masked = false → p.alarm? k o = some a →
      let n := if a.repeats < 255 then a.repeats + 1 else a.repeats
      (p.raiseEdge k o).alarm? k o = some { a with repeats := n } ∧
      (p.raiseEdge k o).alarms.length = p.alarms.length ∧
      ∀ l, (p.raiseEdge k o).link l =
        if l = (p.route k).ack ∨ (p.route k).copies.getLsbD (linkIndex l).val = true then
          (p.link l).queue (.alarm k (p.route k).code o n a.cond (l != (p.route k).ack) p.time.day p.time.second)
        else p.link l) ∧
    (p.raiseEdge k o).facts = p.facts ∧ (p.raiseEdge k o).settled = p.settled

/-- A second event advances the pick timer, and a pick timeout recalls the move. In RUN, where a RELEASED move's pick
seconds are at or above the pick limit, PICK_TIMEOUT (taken by itself, log entry 3) returns the move to QUEUED in its
place, with the present stamp, no lanes, no reservation, 0 pick seconds and one recall more, its enqueue stamp kept;
MOVE RECALLED (TIMEOUT, with the new count) is queued on the floor link; where its pallet is breached and its
destination is not the quarantine room, the move leaves the queue instead, and MOVE ABORTED (BREACH) follows. The
facts stay. In RUN with no tick or minute event outstanding and one move at most for a tag, SECOND_EVENT gives a
RELEASED move one pick second more, 1800 staying 1800, or keeps the count where its source door was in BREACH when the
event was issued; where the count is then below the pick limit the move is otherwise as it was, and at or above it the
move is recalled in the same way with the stamp of the new second (also where the count was kept: log entry 7). A
PICKED move is as it was. After it the alarm list shows the present truth of TRANSIT LONG and MOVE STALLED of every
move: an entry listed shows it, one that is true, unmasked and not settled is listed unless the list is full, and one
that is false is not settled. That the two conditions of every move are examined once the recalls and their release
pass are done is the model's reading (log entry 8), and so is that an examination hands on the present truth, changed
or not (log entry 11). -/
def Obligations.PickTimeoutRecallsTheMove : Prop :=
  ∀ (s : State) (t : Tag) (m : Move), s.part.running = true → s.part.move? t = some m →
    let recalls := if m.recalls < 255 then m.recalls + 1 else m.recalls
    let recalled : Part → Prop := fun q => q.Told .floor (.moveRecalled t .timeout recalls) ∧
      (∀ x, s.part.pallet? t = some x → x.breached = true → s.part.offQuarantine m.dest = true →
        q.move? t = none ∧ q.Told .floor (.moveAborted t .breach .queued (some x.loc))) ∧
      ((∀ x, s.part.pallet? t = some x → x.breached = false) ∨ s.part.offQuarantine m.dest = false →
        q.move? t = some { m with state := .queued, stateStamp := q.now, pickSeconds := 0, lanes := [],
                                  reservation := none, recalls := recalls })
    (m.state = .released → s.part.store.floor.pickLimit ≤ m.pickSeconds →
      ∃ q : Part, exec (.pickTimeout t) s = .next (s.after q) ∧ q.facts = s.part.facts ∧ recalled q ∧
        ((∀ x, s.part.pallet? t = some x → x.breached = false) ∨ s.part.offQuarantine m.dest = false →
          q.moves.map (·.tag) = s.part.moves.map (·.tag))) ∧
    (s.part.time.tickIssued = false → s.part.time.minuteIssued = false → (s.part.moves.map (·.tag)).Nodup →
      ∃ q : Part, exec .secondEvent s = .next (s.after q) ∧ (m.state = .picked → q.move? t = some m) ∧
        (∀ u ∈ q.moves.map (·.tag), q.MoveShown u) ∧
        (m.state = .released →
          let held := ∃ d, m.source = .trailer d ∧ (s.part.door d).state = .breach
          ∃ count : Nat, (held → count = m.pickSeconds) ∧
            (¬held → count = if m.pickSeconds < 1800 then m.pickSeconds + 1 else m.pickSeconds) ∧
            (count < s.part.store.floor.pickLimit → q.move? t = some { m with pickSeconds := count }) ∧
            (s.part.store.floor.pickLimit ≤ count → recalled q)))

/-- A pallet whose account has reached its budget is declared in breach. In RUN, PALLET_BREACH (taken by itself, log
entry 3) at a pallet not yet breached with its account at or above its budget sets its breached flag and changes no
other fact; its alarm is listed; a QUEUED move of it bound elsewhere than the quarantine room leaves the queue with
MOVE ABORTED (BREACH) on the floor link, its two conditions end (log entry 11), and no move that could be released is
left; a move of it in any other state leaves the whole queue as it is. -/
def Obligations.PalletBreachIsDeclared : Prop :=
  ∀ (s : State) (t : Tag) (x : Pallet), s.part.running = true → s.part.pallet? t = some x → x.breached = false →
    x.budget ≤ x.exposure →
    ∃ q : Part, exec (.palletBreach t) s = .next (s.after q) ∧
      q.facts = (s.part.updPallet t fun y => { y with breached := true }).facts ∧ q.Listed .palletBreach t ∧
      (∀ m, s.part.move? t = some m → m.state = .queued → s.part.offQuarantine m.dest = true →
        q.move? t = none ∧ q.Told .floor (.moveAborted t .breach .queued (some x.loc)) ∧ q.MoveShown t ∧ q.NoMoveLeft) ∧
      ∀ m, s.part.move? t = some m → m.state ≠ .queued → q.moves = s.part.moves

/-- A grant opens the head of the door queue. In RUN, where a room's hold is clear, its granted count is below its
budget and its queue is not empty, DOOR_GRANT (taken by itself, log entry 3) takes the head door out of the queue and
into OPEN, stamps its open start, captures the room's F, clears the open-long flag and the close order, queues OPEN
PERMIT with the room on the dock link and raises both counts by one; no move that could be released is left. No coil,
setting, fact, other room's queue or other door's state changes. -/
def Obligations.DoorGrantOpensTheHead : Prop :=
  ∀ (s : State) (r : RoomId) (d : DoorId) (rest : List DoorId), s.part.running = true →
    (s.part.room r).queue = d :: rest → (s.part.room r).hold = false →
    (s.part.room r).granted < (s.part.roomSet r).doorBudget →
    ∃ q : Part, exec (.doorGrant r) s = .next (s.after q) ∧ (q.room r).queue = rest ∧
      (q.room r).granted = (s.part.room r).granted + 1 ∧ (q.room r).openDoors = (s.part.room r).openDoors + 1 ∧
      (q.door d).state = .opened ∧ (q.door d).openStart = some s.part.now ∧
      (q.door d).captured = some (s.part.room r).f ∧ (q.door d).openLong = false ∧ (q.door d).owed = none ∧
      (q.door d).sent = false ∧ q.Told .dock (.openPermit d (some r)) ∧ q.NoMoveLeft ∧
      q.facts = s.part.facts ∧ q.coils = s.part.coils ∧ q.due = s.part.due ∧ q.store = s.part.store ∧
      (∀ e, e ≠ r → (q.room e).queue = (s.part.room e).queue ∧ (q.room e).granted = (s.part.room e).granted) ∧
      ∀ e, e ≠ d → (q.door e).state = (s.part.door e).state

/-- A slot grant arms the first eligible coil of the DUE queue. In RUN, with a free slot and the DUE queue matching
the coil table, SLOT_GRANT (taken by itself, log entry 3) arms the first coil of the queue that is outside the quiet
window or waits at or above a force limit that is not 0: it leaves the queue, holds a slot with its arm minutes at 0
and its wait kept, is in ARMED or has gone on to DEFROST, and its room's defrost hold is set. Every open door of the
room has sent its one close order or owes one of reason DEFROST. Where the coil is a LEAD coil, every FOLLOW coil of
the room that was in COOLING is in DUE, in the DUE queue, with the present stamp and a wait of 0. The alarm list shows
the present truth of DEFROST DEFERRED and DEFROST BLOCKED of the armed coil (log entry 11). The facts stay. -/
def Obligations.SlotGrantArmsACoil : Prop :=
  ∀ (s : State) (c : CoilId), s.part.running = true → s.part.DueQueueMatches →
    s.part.slotsHeld < s.part.store.plant.slotLimit →
    s.part.due.find? (fun e =>
      !(if s.part.store.plant.windowStart ≤ s.part.store.plant.windowEnd then
          decide (s.part.store.plant.windowStart ≤ s.part.time.second / 60) &&
            decide (s.part.time.second / 60 < s.part.store.plant.windowEnd)
        else decide (s.part.store.plant.windowStart ≤ s.part.time.second / 60) ||
          decide (s.part.time.second / 60 < s.part.store.plant.windowEnd)) ||
      (decide (s.part.store.plant.forceLimit ≠ 0) &&
        decide (s.part.store.plant.forceLimit ≤ (s.part.coil e).waitMinutes))) = some c →
    ∃ q : Part, exec .slotGrant s = .next (s.after q) ∧ q.facts = s.part.facts ∧ c ∉ q.due ∧ q.CoilShown c ∧
      (q.coil c).slot = true ∧ ((q.coil c).phase = .armed ∨ (q.coil c).phase = .defrost) ∧
      (q.coil c).armMinutes = 0 ∧ (q.coil c).waitMinutes = (s.part.coil c).waitMinutes ∧
      ∀ r, s.part.coilRoom c = some r → (q.room r).hold = true ∧
        (∀ d, s.part.inner d = some r → (s.part.door d).state = .opened ∨ (s.part.door d).state = .breach →
          (q.door d).sent = true ∨ (q.door d).owed = some .defrost) ∧
        ((s.part.coilSet c).role = .lead → ∀ e, (s.part.coilSet e).role = .follow → s.part.coilRoom e = some r →
          (s.part.coil e).phase = .cooling → e ∈ q.due ∧
            q.coil e = { s.part.coil e with phase := .due, phaseMinutes := 0, waitMinutes := 0,
                                            dueStamp := some s.part.now })

/-- An armed coil whose room is quiet enters DEFROST. In RUN, where an ARMED coil's room has no open door counted and
no released or picked move touching it, DEFROST_ENTRY (taken by itself, log entry 3) takes the coil to DEFROST with 0
phase minutes, applies its staged defrost max, and queues DEFROST START with the value applied on the plant link; the
alarm list shows the present truth of the coil's DEFROST DEFERRED and DEFROST BLOCKED (log entry 11). The facts stay,
and so does every other coil. -/
def Obligations.DefrostEntryOfAQuietRoom : Prop :=
  ∀ (s : State) (c : CoilId) (r : RoomId), s.part.running = true → (s.part.coil c).phase = .armed →
    s.part.coilRoom c = some r → (s.part.room r).openDoors = 0 →
    (∀ m ∈ s.part.moves, (m.state = .released ∨ m.state = .picked) → m.source ≠ .room r ∧ m.dest ≠ .room r) →
    ∃ q : Part, exec (.defrostEntry c) s = .next (s.after q) ∧ q.facts = s.part.facts ∧ q.CoilShown c ∧
      q.coil c = { s.part.coil c with phase := .defrost, phaseMinutes := 0, stagedMax := none } ∧
      (q.coilSet c).defrostMax = (s.part.coil c).stagedMax.getD (s.part.coilSet c).defrostMax ∧
      q.link .plant = (s.part.link .plant).queue (.defrostStart c (some r)
        ((s.part.coil c).stagedMax.getD (s.part.coilSet c).defrostMax)) ∧
      ∀ e, e ≠ c → q.coil e = s.part.coil e

/-- A step of the release pass releases the chosen move. A move is eligible where it is QUEUED, its source is a
trailer whose door is OPEN with an empty lane, a room whose hold is clear, or TRANSIT, and its destination is a
trailer present whose door is OPEN with an empty lane, or a room whose hold is clear and which accepts the pallet:
occupancy and reservations below the capacity, and the quarantine room, or a class limit at or below that of the
pallet's class for a pallet not breached; a move without a pallet record has no room that accepts it (log entry 22).
In RUN, with moves and pallets matching and the truck count below the truck limit, MOVE_RELEASE (taken by itself, log
entry 3, and passing over no move, log entry 36) releases the oldest eligible move of the other direction once the run
has reached its share and there is one, and otherwise the oldest eligible move: it is RELEASED with the present stamp
and 0 pick seconds, its doors' lanes hold its tag, its destination room has one reservation more, the truck count is
one more, the direction run goes on or starts anew, and MOVE GO is queued on the floor link; the alarm list shows the
present truth of its two conditions (log entry 11). Every other move, every coil and every fact stays. -/
def Obligations.MoveReleaseOfTheChosenMove : Prop :=
  (∀ (p : Part) (m : Move), p.eligible m = true ↔ m.state = .queued ∧
    (match m.source with
      | .trailer d => (p.door d).state = .opened ∧ (p.door d).lane = none
      | .room r => (p.room r).hold = false
      | .transit => True) ∧
    (match m.dest with
      | .trailer d => (p.door d).state = .opened ∧ (p.door d).trailer = true ∧ (p.door d).lane = none
      | .room r => (p.room r).hold = false ∧
        (p.room r).occupancy + (p.room r).reservations < (p.roomSet r).capacity ∧
        ∃ x, p.pallet? m.tag = some x ∧ (p.store.floor.quarantineRoom = some r ∨
          x.breached = false ∧ (p.classRow (p.roomSet r).cls).limit ≤ (p.classRow x.cls).limit)
      | .transit => False)) ∧
  ∀ (s : State) (m : Move), s.part.running = true → s.part.MovesMatch →
    s.part.trucks < s.part.store.floor.truckLimit →
    let other := s.part.moves.find? fun x => s.part.eligible x && decide (some x.direction ≠ s.part.dirRun.dir)
    ((s.part.store.floor.share ≤ s.part.dirRun.len ∧ other = some m) ∨
      ((s.part.dirRun.len < s.part.store.floor.share ∨ other = none) ∧
        s.part.moves.find? s.part.eligible = some m)) →
    ∃ q : Part, exec .moveRelease s = .next (s.after q) ∧ q.facts = s.part.facts ∧ q.coils = s.part.coils ∧
      q.MoveShown m.tag ∧ q.trucks = s.part.trucks + 1 ∧
      q.move? m.tag = some { m with state := .released, stateStamp := s.part.now, pickSeconds := 0,
                                    lanes := m.laneDoors, reservation := m.dest.room? } ∧
      (∀ t, t ≠ m.tag → q.move? t = s.part.move? t) ∧
      (∀ d ∈ m.laneDoors, (q.door d).lane = some m.tag) ∧
      (∀ r, m.dest = .room r → (q.room r).reservations = (s.part.room r).reservations + 1) ∧
      q.dirRun = (if s.part.dirRun.dir = some m.direction then
        { dir := some m.direction,
          len := if s.part.dirRun.len < 255 then s.part.dirRun.len + 1 else s.part.dirRun.len }
        else { dir := some m.direction, len := 1 }) ∧
      q.link .floor = (s.part.link .floor).queue (.moveGo m.tag m.source m.dest)

/-- A valid sample steps the filter and makes the recovery checks. In RUN a TEMPERATURE SAMPLE with a value from the
plant link is answered DONE: the value as received is kept, the corrected value is the sum with the offset clamped to
-500..+500, the clamped indication says whether clamping changed it, F16 is seeded from it when the room is unseeded
or stale and stepped toward it otherwise, F is F16 plus 8 over 16 rounded down, the stale count is 0 and the stale
flag clear. With a qualify time of 0 the declared state follows the new raw condition, but for a room not declared
that a coil in DEFROST, DRIP or RECOVER suppresses, and the qualify counter is 0; with any other both stay. Where the
room was stale or its declared state is another, the alarm list shows the present truth of ROOM SENSOR STALE or ROOM
OVER TEMP. Every coil of the room in RECOVER enters COOLING exactly when F is at or below the recover limit; every
other coil keeps its record, and every other room its facts. -/
def Obligations.ValidSampleIsTaken : Prop :=
  ∀ (s : State) (ft b : Byte) (r : RoomId) (v : Word16), s.part.running = true → s.part.hasPlace .plant →
    room? b = some r →
    ∃ q : Part, exec (.temperatureSample .plant ft b 0#8 v) s = .next (s.answered q .plant 0x01#8 ft .done []) ∧
      let x := s.part.room r
      let y := s.part.roomSet r
      let corrected := max (-500) (min 500 (v.toInt + y.sampleOffset))
      let f16 := if x.seeded = false ∨ x.stale = true then corrected * 16
        else x.f16 + ((corrected * 16 - x.f16) * (y.filterWeight : Int)).tdiv 16
      let f := (f16 + 8).fdiv 16
      (q.room r).last = .value v.toInt ∧ (q.room r).clamped = decide (corrected ≠ v.toInt + y.sampleOffset) ∧
      (q.room r).f16 = f16 ∧ (q.room r).f = f ∧ (q.room r).seeded = true ∧ (q.room r).staleCount = 0 ∧
      (q.room r).stale = false ∧ (q.room r).exposure = x.exposure ∧ (q.room r).occupancy = x.occupancy ∧
      (let raw := decide (y.alarmLimit < f)
        let suppressed := decide (∃ c, s.part.coilRoom c = some r ∧ ((s.part.coil c).phase = .defrost ∨
          (s.part.coil c).phase = .drip ∨ (s.part.coil c).phase = .recover))
        (q.room r).declared = (if y.qualify = 0 then raw && (x.declared || !suppressed) else x.declared) ∧
        (q.room r).qualifyCount = (if y.qualify = 0 then 0 else x.qualifyCount)) ∧
      (x.stale = true → q.Shows .roomSensorStale r.val) ∧
      ((q.room r).declared = x.declared ∨ q.Shows .roomOverTemp r.val) ∧
      (∀ e, e ≠ r → (q.room e).facts = (s.part.room e).facts) ∧
      (∀ c, s.part.coilRoom c = some r → (s.part.coil c).phase = .recover → f ≤ y.recoverLimit →
        q.coil c = { s.part.coil c with phase := .cooling, phaseMinutes := 0, stagedInterval := none }) ∧
      ∀ c, (s.part.coilRoom c ≠ some r ∨ (s.part.coil c).phase ≠ .recover ∨ y.recoverLimit < f) →
        q.coil c = s.part.coil c

/-- A FAULT sample is recorded and changes nothing else. In RUN a TEMPERATURE SAMPLE with the FAULT marker from the
plant link is answered DONE, whatever its value field, and the room's last sample is the one thing it changes: F16, F,
the seeded flag, the clamped indication, the stale count and flag, the over-temperature state and its counter and
every coil stay, so that the room goes on toward its stale limit. READ ROOM then shows the last sample as FAULT. -/
def Obligations.FaultSampleIsRecorded : Prop :=
  ∀ (s : State) (ft b : Byte) (r : RoomId) (v : Word16), s.part.running = true → s.part.hasPlace .plant →
    room? b = some r →
    ∃ q : Part, exec (.temperatureSample .plant ft b 1#8 v) s = .next (s.answered q .plant 0x01#8 ft .done []) ∧
      q = (s.part.updRoom r fun x => { x with last := .fault }) ∧ q.coils = s.part.coils ∧
      (q.room r).f16 = (s.part.room r).f16 ∧ (q.room r).f = (s.part.room r).f ∧
      (q.room r).seeded = (s.part.room r).seeded ∧ (q.room r).clamped = (s.part.room r).clamped ∧
      (q.room r).staleCount = (s.part.room r).staleCount ∧ (q.room r).stale = (s.part.room r).stale ∧
      (q.room r).declared = (s.part.room r).declared ∧ (q.room r).qualifyCount = (s.part.room r).qualifyCount ∧
      (roomRecord q r)[5]? = some 1#8 ∧
      ∀ (l : Link) (t : State) (ft' : Byte), t.part = q → q.hasPlace l →
        exec (.readRoom l ft' b) t = .next (t.answered q l 0x1F#8 ft' .done (roomRecord q r))

/-- RESET ROOM EXPOSURE clears the account of a room. With a place for its answer, RESET ROOM EXPOSURE is answered
REFUSED_MODE in SETUP and REFUSED_LINK in RUN from the dock and floor links; in RUN from the plant link it sets E_room
to 0 and clears the reached flag, answers DONE, whatever they were, and changes nothing else, so that no alarm leaves
the list; and a room whose account has reached its budget again raises its event again. -/
def Obligations.RoomExposureIsReset : Prop :=
  (∀ (s : State) (l : Link) (ft b : Byte), s.part.running = false → s.part.hasPlace l →
    exec (.resetRoomExposure l ft b) s = .next (s.answered s.part l 0x06#8 ft .refusedMode [])) ∧
  (∀ (s : State) (l : Link) (ft b : Byte), s.part.running = true → l ≠ .plant → s.part.hasPlace l →
    exec (.resetRoomExposure l ft b) s = .next (s.answered s.part l 0x06#8 ft .refusedLink [])) ∧
  (∀ (s : State) (ft b : Byte) (r : RoomId), s.part.running = true → s.part.hasPlace .plant → room? b = some r →
    exec (.resetRoomExposure .plant ft b) s =
      .next (s.answered (s.part.updRoom r fun x => { x with exposure := 0, reached := false }) .plant 0x06#8 ft
        .done [])) ∧
  ∀ (p : Part) (r : RoomId), (p.room r).seeded = true → (p.room r).reached = false →
    (p.roomSet r).exposureBudget ≤ (p.room r).exposure →
    p.exposureCompare r = (p.updRoom r fun x => { x with reached := true }).raiseEdge .roomExposure r.val

/-- Where a filter rests and what it then reports. For every weight 1..16 and every corrected value in range, a step
from F16 is 0 exactly when the difference from the target is smaller in size than 16 over k; the largest such residue
is 15, 7, 5 sixteenths for k = 1, 2, 3 and 3 or less from 4 on; and a filter at rest reports the target, or one tenth
beside it when k is 1. -/
def Obligations.FilterRestsBesideItsTarget : Prop :=
  ∀ (k : Nat) (c f : Int), 1 ≤ k → k ≤ 16 → -500 ≤ c → c ≤ 500 →
    (filterNext false k c f = f ↔ ((c * 16 - f).natAbs : Int) * k < 16) ∧
    (filterNext false k c f = f →
      (c * 16 - f).natAbs ≤ (if k = 1 then 15 else if k = 2 then 7 else if k = 3 then 5 else 3) ∧
      (k = 1 → reported f = c ∨ reported f = c - 1 ∨ reported f = c + 1) ∧ (2 ≤ k → reported f = c)) ∧
    (k = 1 → filterNext false k c (c * 16 - 15) = c * 16 - 15 ∧ filterNext false k c (c * 16 + 15) = c * 16 + 15) ∧
    (k = 2 → filterNext false k c (c * 16 - 7) = c * 16 - 7 ∧ filterNext false k c (c * 16 + 7) = c * 16 + 7) ∧
    (k = 3 → filterNext false k c (c * 16 - 5) = c * 16 - 5 ∧ filterNext false k c (c * 16 + 5) = c * 16 + 5)

/-- COIL TERMINATED ends a defrost and DEMAND DEFROST asks for one. In RUN from the plant link, with the DUE queue
matching the coil table: COIL TERMINATED at a coil in DEFROST is answered DONE and takes it to DRIP, or to RECOVER
with its slot returned when its drip time is 0, with last stop TERMINATED, DEFROST STOP (TERMINATED) on the plant
link, and COOL RESUME where it is in RECOVER; at a coil in any other phase it is answered LATE and changes nothing.
DEMAND DEFROST at a coil in COOLING is answered DONE and puts it in DUE with the present stamp and a wait of 0, from
where the pass may arm it at once; at a coil in DUE or ARMED it is answered DONE, in any other phase WRONG_STATE, and
changes nothing. The facts stay, and where a coil entered DUE or returned its slot no eligible coil is left waiting
beside a free slot; after a change of phase the alarm list shows the present truth of the coil's DEFROST DEFERRED and
DEFROST BLOCKED (log entry 11). -/
def Obligations.CoilTerminatedAndDemand : Prop :=
  ∀ (s : State) (ft b : Byte) (c : CoilId), s.part.running = true → s.part.hasPlace .plant → coil? b = some c →
    s.part.DueQueueMatches →
    let x := s.part.coil c
    (x.phase = .defrost → ∃ q : Part,
      exec (.coilTerminated .plant ft b) s = .next (s.answered q .plant 0x02#8 ft .done []) ∧
      q.facts = s.part.facts ∧ q.CoilShown c ∧ q.Told .plant (.defrostStop c .terminated) ∧
      ((s.part.coilSet c).drip = 0 → q.Told .plant (.coolResume c) ∧ q.NoCoilLeft) ∧
      q.coil c = (if (s.part.coilSet c).drip = 0 then
        { x with phase := .recover, phaseMinutes := 0, lastStop := some .terminated, slot := false }
        else { x with phase := .drip, phaseMinutes := 0, lastStop := some .terminated })) ∧
    (x.phase = .cooling → ∃ q : Part,
      exec (.demandDefrost .plant ft b) s = .next (s.answered q .plant 0x03#8 ft .done []) ∧
      q.facts = s.part.facts ∧ q.CoilShown c ∧
      ((q.coil c).phase = .due ∨ (q.coil c).phase = .armed ∨ (q.coil c).phase = .defrost) ∧
      (q.coil c).dueStamp = some s.part.now ∧ (q.coil c).waitMinutes = 0 ∧ q.NoCoilLeft) ∧
    (x.phase ≠ .defrost →
      exec (.coilTerminated .plant ft b) s = .next (s.answered s.part .plant 0x02#8 ft .late [])) ∧
    ((x.phase = .defrost ∨ x.phase = .drip ∨ x.phase = .recover ∨ x.phase = .off) →
      exec (.demandDefrost .plant ft b) s = .next (s.answered s.part .plant 0x03#8 ft .wrongState [])) ∧
    ((x.phase = .due ∨ x.phase = .armed) →
      exec (.demandDefrost .plant ft b) s = .next (s.answered s.part .plant 0x03#8 ft .done []))

/-- STAGE COIL TIMING holds its values, and COIL SERVICE takes a coil out and back. In RUN from the plant link: STAGE
COIL TIMING with the COIL group unlocked and values in range is answered DONE and writes each carried value into its
staged field, changing nothing else; COIL SERVICE on takes a coil in COOLING to OFF with 0 phase minutes; in any other
phase it is answered WRONG_STATE and changes nothing; off takes a coil in OFF to COOLING with 0 phase minutes and its
staged interval applied, and changes nothing in any other phase; every other coil and the facts stay, and after a
change of phase the alarm list shows the present truth of the coil's DEFROST DEFERRED and DEFROST BLOCKED (log entry
11). -/
def Obligations.StagedTimingAndCoilService : Prop :=
  ∀ (s : State) (ft b : Byte) (c : CoilId) (i : Word16) (m : Byte), s.part.running = true →
    s.part.hasPlace .plant → coil? b = some c →
    (s.part.locked .coil = false → (i.toNat = 0 ∨ (30 ≤ i.toNat ∧ i.toNat ≤ 2880)) →
      exec (.stageCoilTiming .plant ft b 1#8 i m) s = .next (s.answered
        (s.part.updCoil c fun x => { x with stagedInterval := some i.toNat }) .plant 0x04#8 ft .done [])) ∧
    (s.part.locked .coil = false → 5 ≤ m.toNat → m.toNat ≤ 90 →
      exec (.stageCoilTiming .plant ft b 2#8 i m) s = .next (s.answered
        (s.part.updCoil c fun x => { x with stagedMax := some m.toNat }) .plant 0x04#8 ft .done [])) ∧
    (s.part.locked .coil = false → (i.toNat = 0 ∨ (30 ≤ i.toNat ∧ i.toNat ≤ 2880)) → 5 ≤ m.toNat → m.toNat ≤ 90 →
      exec (.stageCoilTiming .plant ft b 3#8 i m) s = .next (s.answered
        (s.part.updCoil c fun x => { x with stagedInterval := some i.toNat, stagedMax := some m.toNat }) .plant 0x04#8
        ft .done [])) ∧
    ((s.part.coil c).phase = .cooling → ∃ q : Part,
      exec (.coilService .plant ft b 1#8) s = .next (s.answered q .plant 0x05#8 ft .done []) ∧
      q.facts = s.part.facts ∧ q.CoilShown c ∧
      q.coil c = { s.part.coil c with phase := .off, phaseMinutes := 0 } ∧
      ∀ e, e ≠ c → q.coil e = s.part.coil e) ∧
    ((s.part.coil c).phase ≠ .cooling →
      exec (.coilService .plant ft b 1#8) s = .next (s.answered s.part .plant 0x05#8 ft .wrongState [])) ∧
    ((s.part.coil c).phase ≠ .off →
      exec (.coilService .plant ft b 0#8) s = .next (s.answered s.part .plant 0x05#8 ft .done [])) ∧
    ((s.part.coil c).phase = .off → ∃ q : Part,
      exec (.coilService .plant ft b 0#8) s = .next (s.answered q .plant 0x05#8 ft .done []) ∧
      q.facts = s.part.facts ∧ q.CoilShown c ∧
      q.coil c = { s.part.coil c with phase := .cooling, phaseMinutes := 0, stagedInterval := none } ∧
      (q.coilSet c).interval = (s.part.coil c).stagedInterval.getD (s.part.coilSet c).interval ∧
      ∀ e, e ≠ c → q.coil e = s.part.coil e)

/-- Trailer, restraint and seal reports move the door by its physical fields. In RUN from the dock link, at a door not
in SERVICE: TRAILER ARRIVED at a door with an inner room is answered DONE, makes the trailer present with its reading
clamped (or absent), and takes a closed door without a trailer to its rest state; RESTRAINT with a new value takes it,
and the door's state follows by the table of R34, with REQUEST DROPPED (RESTRAINT) for a waiting door and MOVE HOLD or
MOVE RESUME for the move of the lane: an OPEN door breaches with cause SEAL, a return to OPEN leaves no cause, and at
both the alarm list shows the present truth of DOOR SEAL LOST; after a change of the door's state no move that could
be released is left; SEAL CONDITION with a new value sets the raw seal and the counter to 0 and changes nothing else;
a report equal to the restraint or the raw seal held changes nothing. TRAILER ARRIVED at a door without an inner room
is answered WRONG_STATE, as every report is at a door in SERVICE, and changes nothing. No coil, no other door's state
and no other fact changes. -/
def Obligations.TrailerRestraintAndSealReports : Prop :=
  ∀ (s : State) (ft b : Byte) (d : DoorId), s.part.running = true → s.part.hasPlace .dock → door? b = some d →
   (∀ v : Option Word16, (s.part.door d).state = .service ∨ s.part.inner d = none →
    exec (.trailerArrived .dock ft b v) s = .next (s.answered s.part .dock 0x07#8 ft .wrongState [])) ∧
   ((s.part.door d).state = .service →
    exec (.trailerLeft .dock ft b) s = .next (s.answered s.part .dock 0x08#8 ft .wrongState []) ∧
    ∀ v : Bool,
      exec (.restraint .dock ft b (if v then 1#8 else 0#8)) s =
        .next (s.answered s.part .dock 0x09#8 ft .wrongState []) ∧
      exec (.sealCondition .dock ft b (if v then 1#8 else 0#8)) s =
        .next (s.answered s.part .dock 0x0A#8 ft .wrongState []) ∧
      exec (.doorPosition .dock ft b (if v then 1#8 else 0#8)) s =
        .next (s.answered s.part .dock 0x0B#8 ft .wrongState [])) ∧
   ((s.part.door d).state ≠ .service →
    (∀ v : Option Word16, s.part.inner d ≠ none → ∃ q : Part,
      exec (.trailerArrived .dock ft b v) s = .next (s.answered q .dock 0x07#8 ft .done []) ∧
      let x : Door := { s.part.door d with trailer := true,
                                           reading := v.map fun w => max (-500) (min 500 w.toInt) }
      q.facts = (s.part.updDoor d fun _ => x).facts ∧ q.coils = s.part.coils ∧
      (q.door d).state = (if (s.part.door d).trailer = false ∧
        ((s.part.door d).state = .vacant ∨ (s.part.door d).state = .docked ∨ (s.part.door d).state = .sealed) then
          (if x.engaged = true ∧ x.qualSeal = .good then .sealed else .docked)
        else (s.part.door d).state) ∧
      ((q.door d).state = (s.part.door d).state ∨ q.NoMoveLeft) ∧
      ∀ e, e ≠ d → (q.door e).state = (s.part.door e).state) ∧
    (∀ v : Bool, (s.part.door d).engaged ≠ v → ∃ q : Part,
      exec (.restraint .dock ft b (if v then 1#8 else 0#8)) s = .next (s.answered q .dock 0x09#8 ft .done []) ∧
      let x : Door := { s.part.door d with engaged := v }
      q.facts = (s.part.updDoor d fun _ => x).facts ∧ q.coils = s.part.coils ∧
      (q.door d).state = x.stateAfterSeal (s.part.doorSet d).sealMode ∧
      ((s.part.door d).state = .opened → (q.door d).state = .breach → (q.door d).cause = some .sealLoss) ∧
      ((s.part.door d).state = .breach → (q.door d).state = .opened → (q.door d).cause = none) ∧
      (((q.door d).state = .breach ↔ (s.part.door d).state = .breach) ∨ q.Shows .doorSealLost d.val) ∧
      ((q.door d).state = (s.part.door d).state ∨ q.NoMoveLeft) ∧
      ((s.part.door d).state = .waiting → (q.door d).state ≠ .waiting → q.Told .dock (.requestDropped d .restraint)) ∧
      (∀ t, (s.part.door d).lane = some t →
        ((s.part.door d).state = .opened → (q.door d).state = .breach → q.Told .floor (.moveHold t d)) ∧
        ((s.part.door d).state = .breach → (q.door d).state = .opened → q.Told .floor (.moveResume t d))) ∧
      ∀ e, e ≠ d → (q.door e).state = (s.part.door e).state) ∧
    (∀ v : Bool, (s.part.door d).engaged = v →
      exec (.restraint .dock ft b (if v then 1#8 else 0#8)) s =
        .next (s.answered s.part .dock 0x09#8 ft .done [])) ∧
    (∀ v : Bool, (s.part.door d).rawSeal = (if v then .good else .lost) →
      exec (.sealCondition .dock ft b (if v then 1#8 else 0#8)) s =
        .next (s.answered s.part .dock 0x0A#8 ft .done [])) ∧
    ∀ v : Bool, (s.part.door d).rawSeal ≠ (if v then .good else .lost) →
      exec (.sealCondition .dock ft b (if v then 1#8 else 0#8)) s = .next (s.answered
        (s.part.updDoor d fun x => { x with rawSeal := if v then .good else .lost, sealCount := 0 }) .dock 0x0A#8 ft
        .done []))

/-- TRAILER LEFT ships the trailer's pallets and ends the moves that name it. In RUN from the dock link, at a door not
in SERVICE with a trailer present and moves and pallets matching, TRAILER LEFT is answered DONE: the trailer and its
reading are gone, a closed or waiting door is VACANT, an OPEN door is in BREACH with cause TRAILER and the alarm list
shows its DOOR SEAL LOST, a breach by the seal has cause TRAILER and any other keeps its cause; the pallets at the
trailer have left the table and every other pallet keeps its facts; the one kind of move still naming the trailer is a
PICKED move on its way elsewhere. Every pallet shipped stands in a PALLETS SHIPPED notice, every other move that named
the trailer in a MOVE ABORTED (TRAILER GONE) with its state and its pallet's location, absent where the pallet has
shipped, both on the floor link; a waiting door's REQUEST DROPPED (TRAILER) is on the dock link; no move that could be
released is left. At a door without a trailer it changes nothing. -/
def Obligations.TrailerLeftEmptiesTheTrailer : Prop :=
  ∀ (s : State) (ft b : Byte) (d : DoorId), s.part.running = true → s.part.hasPlace .dock → door? b = some d →
   (s.part.door d).state ≠ .service →
   ((s.part.door d).trailer = false →
    exec (.trailerLeft .dock ft b) s = .next (s.answered s.part .dock 0x08#8 ft .done [])) ∧
   ((s.part.door d).trailer = true → s.part.MovesMatch →
    ∃ q : Part, exec (.trailerLeft .dock ft b) s = .next (s.answered q .dock 0x08#8 ft .done []) ∧
      (q.door d).facts = Door.facts { s.part.door d with trailer := false, reading := none } ∧
      (q.door d).state = (match (s.part.door d).state with
        | .opened | .breach => .breach
        | _ => .vacant) ∧
      ((s.part.door d).state = .opened → (q.door d).cause = some .trailer ∧ q.Shows .doorSealLost d.val) ∧
      ((s.part.door d).state = .breach →
        (q.door d).cause = if (s.part.door d).cause = some .sealLoss then some .trailer else (s.part.door d).cause) ∧
      q.pallets.map Pallet.facts = (s.part.pallets.filter fun x => x.loc != .trailer d).map Pallet.facts ∧
      (∀ m ∈ q.moves, m.namesTrailer d = true → m.state = .picked ∧ m.dest ≠ .trailer d) ∧
      (∀ x ∈ s.part.pallets, x.loc = .trailer d → (q.link .floor).resync = true ∨
        ∃ es, .palletsShipped d es ∈ (q.link .floor).notices ∧ ⟨x.tag, x.exposure, x.breached⟩ ∈ es) ∧
      (∀ m ∈ s.part.moves, m.namesTrailer d = true → ¬(m.state = .picked ∧ m.dest ≠ .trailer d) →
        q.Told .floor (.moveAborted m.tag .trailerGone m.state
          (if m.state = .picked then some .transit else if m.source = .trailer d then none else some m.source))) ∧
      ((s.part.door d).state = .waiting → q.Told .dock (.requestDropped d .trailer)) ∧ q.NoMoveLeft ∧
      q.time = s.part.time ∧ (∀ r, (q.room r).facts = (s.part.room r).facts) ∧
      ∀ e, e ≠ d → (q.door e).facts = (s.part.door e).facts)

/-- A door reported open without a grant is in BREACH by force. In RUN from the dock link, DOOR POSITION open at a
door in VACANT, DOCKED, SEALED or WAITING is answered DONE: the door is in BREACH with cause FORCED, its position
open, its open start the present run seconds, its captured temperature the inner room's F or absent, its open-long
flag no; the inner room's open-door count is one more and its granted count as it was; the door stands in no place of
its room's queue. Its DOOR FORCED alarm is listed, the alarm list shows its DOOR SEAL LOST, the move of its lane has
MOVE HOLD on the floor link, while the room's hold is set the door has sent its one close order or owes one of reason
DEFROST, and no move that could be released is left. At a door in OPEN or BREACH the position is the one thing that
changes. -/
def Obligations.ForcedOpeningBreaches : Prop :=
  ∀ (s : State) (ft b : Byte) (d : DoorId), s.part.running = true → s.part.hasPlace .dock → door? b = some d →
    (((s.part.door d).state = .vacant ∨ (s.part.door d).state = .docked ∨ (s.part.door d).state = .sealed ∨
        (s.part.door d).state = .waiting) → s.part.DoorQueuesMatch → ∃ q : Part,
      exec (.doorPosition .dock ft b 1#8) s = .next (s.answered q .dock 0x0B#8 ft .done []) ∧
      (q.door d).state = .breach ∧ (q.door d).cause = some .forced ∧ (q.door d).openStart = some s.part.now ∧
      (q.door d).captured = (s.part.inner d).map (fun r => (s.part.room r).f) ∧ (q.door d).openLong = false ∧
      q.facts = (s.part.updDoor d fun x => { x with isOpen := true }).facts ∧ q.coils = s.part.coils ∧
      (∀ r, s.part.inner d = some r → (q.room r).openDoors = (s.part.room r).openDoors + 1 ∧
        (q.room r).granted = (s.part.room r).granted ∧ d ∉ (q.room r).queue ∧
        ((s.part.room r).hold = true → (q.door d).sent = true ∨ (q.door d).owed = some .defrost)) ∧
      q.Listed .doorForced d.val ∧ q.Shows .doorSealLost d.val ∧
      (∀ t, (s.part.door d).lane = some t → q.Told .floor (.moveHold t d)) ∧
      q.NoMoveLeft ∧
      ∀ e, e ≠ d → (q.door e).state = (s.part.door e).state) ∧
    (((s.part.door d).state = .opened ∨ (s.part.door d).state = .breach) →
      exec (.doorPosition .dock ft b 1#8) s = .next (s.answered
        (s.part.updDoor d fun x => { x with isOpen := true }) .dock 0x0B#8 ft .done []))

/-- A door reported closed ends its opening. In RUN from the dock link, with the door queues matching the doors, DOOR
POSITION closed at a door in OPEN or BREACH is answered DONE: the door takes its rest state with its position closed,
no open start, captured temperature, open-long flag or cause; its last opening holds the duration and the rise, absent
where no temperature was captured; where the room's queue is empty, its open-door count is one less, and its granted
count one less when the opening began with a grant. DOOR CLOSED with these values is queued on the dock link. After a
BREACH the alarm list shows the present truth of DOOR SEAL LOST, after a long opening that of DOOR OPEN LONG: both are
false. With one move at most for a tag, every RELEASED move that names the door and holds its lane is recalled, with
MOVE RECALLED (DOOR CLOSED) on the floor link: it is QUEUED in its place with the present stamp, no lanes, no
reservation and one recall more, unless its breached pallet ends it. Afterwards no door of the room waits that could
be granted, no coil of it is in ARMED while it is quiet, and no move that could be released is left. At a closed or
waiting door the report changes nothing. -/
def Obligations.ClosingEndsTheOpening : Prop :=
  ∀ (s : State) (ft b : Byte) (d : DoorId), s.part.running = true → s.part.hasPlace .dock → door? b = some d →
    (((s.part.door d).state = .opened ∨ (s.part.door d).state = .breach) → s.part.DoorQueuesMatch → ∃ q : Part,
      exec (.doorPosition .dock ft b 0#8) s = .next (s.answered q .dock 0x0B#8 ft .done []) ∧
      (q.door d).state = (if (s.part.door d).trailer = false then .vacant
        else if (s.part.door d).engaged = true ∧ (s.part.door d).qualSeal = .good then .sealed else .docked) ∧
      (q.door d).openStart = none ∧ (q.door d).captured = none ∧ (q.door d).openLong = false ∧
      (q.door d).cause = none ∧ ((s.part.door d).state = .breach → q.Shows .doorSealLost d.val) ∧
      ((s.part.door d).openLong = true → q.Shows .doorOpenLong d.val) ∧
      q.facts = (s.part.updDoor d fun x => { x with
        isOpen := false
        lastOpen := some
          { duration := s.part.now - x.openStart.getD s.part.now,
            rise := match x.captured, s.part.inner d with
              | some t, some r => some ((s.part.room r).f - t)
              | _, _ => none } }).facts ∧
      q.Told .dock (.doorClosed d (decide ((s.part.door d).state = .breach ∧ (s.part.door d).cause = some .forced))
        (s.part.now - (s.part.door d).openStart.getD s.part.now)
        (match (s.part.door d).captured, s.part.inner d with
          | some t, some r => some ((s.part.room r).f - t)
          | _, _ => none)) ∧
      ((s.part.moves.map (·.tag)).Nodup → ∀ m ∈ s.part.moves, m.state = .released → m.namesTrailer d = true →
        d ∈ m.lanes →
        let recalls := if m.recalls < 255 then m.recalls + 1 else m.recalls
        q.Told .floor (.moveRecalled m.tag .doorClosed recalls) ∧
        (q.move? m.tag = none → s.part.offQuarantine m.dest = true ∧
          ∃ x ∈ s.part.pallets, x.tag = m.tag ∧ x.breached = true) ∧
        ∀ n, q.move? m.tag = some n → n = { m with state := .queued, stateStamp := s.part.now, pickSeconds := 0,
                                                    lanes := [], reservation := none, recalls := recalls }) ∧
      q.NoMoveLeft ∧ (∀ r, s.part.inner d = some r → q.NoDoorLeft r ∧ q.NoArmedLeft r) ∧
      ∀ r, s.part.inner d = some r → (s.part.room r).queue = [] →
        (q.room r).openDoors = (s.part.room r).openDoors - 1 ∧
        (q.room r).granted = (if (s.part.door d).state = .opened ∨ (s.part.door d).cause ≠ some .forced then
          (s.part.room r).granted - 1 else (s.part.room r).granted)) ∧
    (((s.part.door d).state = .vacant ∨ (s.part.door d).state = .docked ∨ (s.part.door d).state = .sealed ∨
        (s.part.door d).state = .waiting) →
      exec (.doorPosition .dock ft b 0#8) s = .next (s.answered s.part .dock 0x0B#8 ft .done []))

/-- DOOR SERVICE takes a VACANT door out and back. In RUN from the dock link, DOOR SERVICE on at a VACANT door is
answered DONE and takes it to SERVICE with its seal counter at 0; off at a door in SERVICE takes it back to VACANT
with its physical fields as they were; on at any other door is answered WRONG_STATE, off DONE, and changes nothing.
After each change no move that could be released is left. No coil, no other door's state and no other fact changes. -/
def Obligations.DoorServiceOnAndOff : Prop :=
  ∀ (s : State) (ft b : Byte) (d : DoorId), s.part.running = true → s.part.hasPlace .dock → door? b = some d →
    ((s.part.door d).state = .vacant → ∃ q : Part,
      exec (.doorService .dock ft b 1#8) s = .next (s.answered q .dock 0x0C#8 ft .done []) ∧
      (q.door d).state = .service ∧ q.NoMoveLeft ∧
      q.facts = (s.part.updDoor d fun x => { x with sealCount := 0 }).facts ∧
      q.coils = s.part.coils ∧ ∀ e, e ≠ d → (q.door e).state = (s.part.door e).state) ∧
    ((s.part.door d).state = .service → ∃ q : Part,
      exec (.doorService .dock ft b 0#8) s = .next (s.answered q .dock 0x0C#8 ft .done []) ∧
      (q.door d).state = .vacant ∧ q.NoMoveLeft ∧ q.facts = s.part.facts ∧ q.coils = s.part.coils ∧
      ∀ e, e ≠ d → (q.door e).state = (s.part.door e).state) ∧
    ((s.part.door d).state ≠ .vacant →
      exec (.doorService .dock ft b 1#8) s = .next (s.answered s.part .dock 0x0C#8 ft .wrongState [])) ∧
    ((s.part.door d).state ≠ .service →
      exec (.doorService .dock ft b 0#8) s = .next (s.answered s.part .dock 0x0C#8 ft .done []))

/-- OPEN REQUEST joins the queue and is granted at once where the room may grant. In RUN from the dock link, OPEN
REQUEST at a SEALED door with an inner room is answered DONE with the door's state at the end of the taking. While the
room's hold is set, the door is WAITING at the tail of the room's queue. Where the hold is clear, the queue empty and
the granted count below the budget, the door is in OPEN with the present open start and the room's F captured, OPEN
PERMIT is queued on the dock link, the queue empty and the granted count one more. Afterwards no door of the room
waits that could be granted, and no move that could be released is left. The facts stay. At a door in any other state
it is answered WRONG_STATE and changes nothing. -/
def Obligations.OpenRequestIsGrantedOrWaits : Prop :=
  ∀ (s : State) (ft b : Byte) (d : DoorId) (r : RoomId), s.part.running = true → s.part.hasPlace .dock →
    door? b = some d → s.part.inner d = some r →
    ((s.part.door d).state ≠ .sealed →
      exec (.openRequest .dock ft b) s = .next (s.answered s.part .dock 0x0D#8 ft .wrongState [])) ∧
    ((s.part.door d).state = .sealed → ∃ q : Part,
      exec (.openRequest .dock ft b) s = .next (s.answered q .dock 0x0D#8 ft .done
        [BitVec.ofNat 8 (doorStateCode (q.door d).state)]) ∧ q.facts = s.part.facts ∧ q.coils = s.part.coils ∧
      q.NoDoorLeft r ∧ q.NoMoveLeft ∧
      ((s.part.room r).hold = true →
        (q.door d).state = .waiting ∧ (q.room r).queue = (s.part.room r).queue ++ [d]) ∧
      ((s.part.room r).hold = false → (s.part.room r).queue = [] →
        (s.part.room r).granted < (s.part.roomSet r).doorBudget →
        (q.door d).state = .opened ∧ (q.door d).openStart = some s.part.now ∧
        (q.door d).captured = some (s.part.room r).f ∧ q.Told .dock (.openPermit d (some r)) ∧
        (q.room r).queue = [] ∧ (q.room r).granted = (s.part.room r).granted + 1))

/-- OPEN CANCEL takes a waiting door out of the queue. In RUN from the dock link, OPEN CANCEL at a WAITING door is
answered DONE, the door is SEALED and out of its room's queue, where every other door keeps its order, and no move
that could be released is left; at a closed door it is answered DONE and changes nothing; at a door in OPEN or BREACH
it is answered LATE and changes nothing. -/
def Obligations.OpenCancelWithdrawsARequest : Prop :=
  ∀ (s : State) (ft b : Byte) (d : DoorId) (r : RoomId), s.part.running = true → s.part.hasPlace .dock →
    door? b = some d → s.part.inner d = some r →
    ((s.part.door d).state = .waiting → ∃ q : Part,
      exec (.openCancel .dock ft b) s = .next (s.answered q .dock 0x0E#8 ft .done []) ∧
      (q.door d).state = .sealed ∧ (q.room r).queue = (s.part.room r).queue.filter (fun e => decide (e ≠ d)) ∧
      q.facts = s.part.facts ∧ q.coils = s.part.coils ∧ q.NoMoveLeft ∧
      (∀ e, e ≠ d → (q.door e).state = (s.part.door e).state)) ∧
    (((s.part.door d).state = .vacant ∨ (s.part.door d).state = .docked ∨ (s.part.door d).state = .sealed) →
      exec (.openCancel .dock ft b) s = .next (s.answered s.part .dock 0x0E#8 ft .done [])) ∧
    (((s.part.door d).state = .opened ∨ (s.part.door d).state = .breach) →
      exec (.openCancel .dock ft b) s = .next (s.answered s.part .dock 0x0E#8 ft .late []))

/-- REGISTER PALLET makes a record and REMOVE PALLET takes one away. In RUN from the floor link: a registration whose
fields are in range, whose tag has no record, that finds a place in the table, and whose place is the trailer of a
door with one or a room that accepts the pallet, is answered DONE, and its one effect is a record at the end of the
table, with E 0, the carried budget or the class's, no breach, no live move and the present stamp, and one more in the
occupancy of its room. A removal of a record without a live move is answered DONE: the record is gone, the occupancy
of its room is one less, and every other pallet and fact stays, and from a room no move that could be released is
left. With every field in range, a registration of a tag that has a record is answered EXISTS, one for a table of 256
records FULL, and one in TRANSIT, at the trailer of a door without one, or in a room that does not accept the pallet
WRONG_PLACE, in this order; a removal without a record is answered NO_SUCH, and of a record with a live move
WRONG_STATE; nothing changes. -/
def Obligations.PalletsAreRegisteredAndRemoved : Prop :=
  ∀ (s : State) (ft : Byte) (t : Word32), s.part.running = true → s.part.hasPlace .floor → t ≠ 0#32 →
    (∀ (cls : Byte) (k : PClass) (loc : RawLoc) (x : Loc) (w : Option Word32), class? cls = some k →
      loc? loc = some x → (∀ v, w = some v → 1 ≤ v.toNat ∧ v.toNat ≤ 9999999) →
      let refused : AnswerCode → Prop := fun c =>
        exec (.registerPallet .floor ft t cls loc w) s = .next (s.answered s.part .floor 0x0F#8 ft c [])
      (s.part.pallet? t.toNat ≠ none → refused .exists_) ∧
      (s.part.pallet? t.toNat = none → 256 ≤ s.part.pallets.length → refused .full) ∧
      (s.part.pallet? t.toNat = none → s.part.pallets.length < 256 →
        (x = .transit ∨ (∃ d, x = .trailer d ∧ (s.part.door d).trailer = false) ∨
          ∃ r, x = .room r ∧
            ((s.part.roomSet r).capacity ≤ (s.part.room r).occupancy + (s.part.room r).reservations ∨
            s.part.store.floor.quarantineRoom ≠ some r ∧
              (s.part.classRow k).limit < (s.part.classRow (s.part.roomSet r).cls).limit)) →
        refused .wrongPlace)) ∧
    (s.part.pallet? t.toNat = none →
      exec (.removePallet .floor ft t) s = .next (s.answered s.part .floor 0x10#8 ft .noSuch [])) ∧
    (∀ x, s.part.pallet? t.toNat = some x → x.live = true →
      exec (.removePallet .floor ft t) s = .next (s.answered s.part .floor 0x10#8 ft .wrongState [])) ∧
    (∀ (cls : Byte) (k : PClass) (loc : RawLoc) (w : Option Word32), class? cls = some k →
      (∀ v, w = some v → 1 ≤ v.toNat ∧ v.toNat ≤ 9999999) → s.part.pallet? t.toNat = none →
      s.part.pallets.length < 256 →
      let new : Loc → Part := fun x =>
        { s.part with pallets := s.part.pallets ++
            [{ tag := t.toNat, cls := k, loc := x, exposure := 0,
               budget := (w.map (·.toNat)).getD (s.part.classRow k).budget, breached := false, live := false,
               stamp := s.part.now, lastTemp := none }] }
      (∀ d, loc? loc = some (.trailer d) → (s.part.door d).trailer = true →
        exec (.registerPallet .floor ft t cls loc w) s =
          .next (s.answered (new (.trailer d)) .floor 0x0F#8 ft .done [])) ∧
      ∀ r, loc? loc = some (.room r) →
        (s.part.room r).occupancy + (s.part.room r).reservations < (s.part.roomSet r).capacity →
        (s.part.store.floor.quarantineRoom = some r ∨
          (s.part.classRow (s.part.roomSet r).cls).limit ≤ (s.part.classRow k).limit) →
        exec (.registerPallet .floor ft t cls loc w) s = .next (s.answered
          ((new (.room r)).updRoom r fun x => { x with occupancy := x.occupancy + 1 }) .floor 0x0F#8 ft .done [])) ∧
    ∀ x, s.part.pallet? t.toNat = some x → x.live = false → ∃ q : Part,
      exec (.removePallet .floor ft t) s = .next (s.answered q .floor 0x10#8 ft .done []) ∧
      q.pallets.map Pallet.facts = (s.part.pallets.filter fun y => decide (y.tag ≠ t.toNat)).map Pallet.facts ∧
      (∀ r, (q.room r).facts = Room.facts
        { s.part.room r with occupancy := if x.loc = .room r then (s.part.room r).occupancy - 1
                                          else (s.part.room r).occupancy }) ∧
      q.time = s.part.time ∧ q.store = s.part.store ∧ q.coils = s.part.coils ∧
      (∀ d, (q.door d).facts = (s.part.door d).facts) ∧ (∀ r, x.loc = .room r → q.NoMoveLeft) ∧
      ((∀ r, x.loc ≠ .room r) → q = { s.part with pallets := s.part.pallets.filter fun y => y.tag != t.toNat })

/-- ENQUEUE MOVE makes a move and CANCEL MOVE takes one away. In RUN from the floor link: an order for a pallet
without a live move, with a place in the queue, moves and pallets matching, and a destination that fits (a trailer
that stands at its door and is not the pallet's place, for a pallet not breached; a room that accepts the pallet and
is not its place), is answered DONE with the move's state: its record is the last of the queue, from the pallet's
place, with the present stamps and no recalls, QUEUED at the truck limit and QUEUED or RELEASED below it; the pallet
has its live move; the facts stay; no move that could be released is left. A cancel of a move QUEUED or RELEASED is
answered DONE and takes the one move of its tag from the queue, with the pallet's live move absent and its two
conditions ended (log entry 11); the facts stay, no move that could be released is left, and no coil of a room it
named is in ARMED while the room is quiet. An order for a tag without a record is answered NO_SUCH, for a pallet with
a live move EXISTS, to a destination that does not fit WRONG_PLACE, and for a queue of 48 moves FULL, in this order; a
cancel without a move is answered NO_SUCH and of a PICKED move WRONG_STATE; nothing changes. -/
def Obligations.MovesAreOrderedAndCancelled : Prop :=
  ∀ (s : State) (ft : Byte) (t : Word32), s.part.running = true → s.part.hasPlace .floor → t ≠ 0#32 →
    (∀ (dest : RawLoc) (e : Loc), loc? dest = some e →
      let refused : AnswerCode → Prop := fun c =>
        exec (.enqueueMove .floor ft t dest) s = .next (s.answered s.part .floor 0x11#8 ft c [])
      (s.part.pallet? t.toNat = none → refused .noSuch) ∧
      ∀ x, s.part.pallet? t.toNat = some x →
        let fits := x.loc ≠ e ∧
          ((∃ d, e = .trailer d ∧ (s.part.door d).trailer = true ∧ x.breached = false) ∨
            ∃ r, e = .room r ∧ s.part.accepts r x.cls x.breached = true)
        (x.live = true → refused .exists_) ∧ (x.live = false → ¬fits → refused .wrongPlace) ∧
        (x.live = false → fits → 48 ≤ s.part.moves.length → refused .full)) ∧
    (s.part.move? t.toNat = none →
      exec (.cancelMove .floor ft t) s = .next (s.answered s.part .floor 0x12#8 ft .noSuch [])) ∧
    (∀ m, s.part.move? t.toNat = some m → m.state = .picked →
      exec (.cancelMove .floor ft t) s = .next (s.answered s.part .floor 0x12#8 ft .wrongState [])) ∧
    (∀ (dest : RawLoc) (e : Loc) (x : Pallet), loc? dest = some e → s.part.pallet? t.toNat = some x →
      x.live = false → s.part.moves.length < 48 → s.part.MovesMatch → x.loc ≠ e →
      ((∃ d, e = .trailer d ∧ (s.part.door d).trailer = true ∧ x.breached = false) ∨
        ∃ r, e = .room r ∧ s.part.accepts r x.cls x.breached = true) →
      ∃ (q : Part) (m : Move), exec (.enqueueMove .floor ft t dest) s = .next (s.answered q .floor 0x11#8 ft .done
          [BitVec.ofNat 8 (moveStateCode m.state)]) ∧
        q.move? t.toNat = some m ∧ m.source = x.loc ∧ m.dest = e ∧
        m.direction = (match x.loc with
          | .trailer _ => .inbound
          | _ => .other) ∧
        m.enqueueStamp = s.part.now ∧ m.stateStamp = s.part.now ∧ m.pickSeconds = 0 ∧ m.recalls = 0 ∧
        ((m.state = .queued ∧ m.lanes = [] ∧ m.reservation = none) ∨ m.state = .released) ∧
        (s.part.store.floor.truckLimit ≤ s.part.trucks → m.state = .queued) ∧
        q.moves.map (·.tag) = s.part.moves.map (·.tag) ++ [t.toNat] ∧ q.facts = s.part.facts ∧
        q.coils = s.part.coils ∧ (q.pallet? t.toNat).map (·.live) = some true ∧ q.NoMoveLeft) ∧
    ∀ m, s.part.move? t.toNat = some m → m.state ≠ .picked → ∃ q : Part,
      exec (.cancelMove .floor ft t) s = .next (s.answered q .floor 0x12#8 ft .done []) ∧
      q.moves.map (·.tag) = (s.part.moves.map (·.tag)).filter (fun u => decide (u ≠ t.toNat)) ∧
      q.facts = s.part.facts ∧ (∀ x ∈ q.pallets, x.tag = t.toNat → x.live = false) ∧ q.MoveShown t.toNat ∧
      q.NoMoveLeft ∧
      ∀ r, m.source = .room r ∨ m.dest = .room r → q.NoArmedLeft r

/-- PICKED takes a pallet into TRANSIT, and DROPPED puts it down. In RUN from the floor link: PICKED of a RELEASED
move, its source door in no breach, moves and pallets matching, is answered DONE: the move is PICKED with the present
stamp, without the lane of its source door and otherwise as it was; the pallet is in TRANSIT, the occupancy of a
source room is one less, and no other fact changes; PICKED of a PICKED move is answered DONE, of a QUEUED move
WRONG_STATE where it was never recalled and TOO_LATE where it was, of a RELEASED move whose source door is in BREACH
WRONG_STATE, and each changes nothing. DROPPED of a PICKED move at its destination (a trailer's door in OPEN), or at
another room that accepts the pallet with its hold clear, is answered DONE: the move is gone, the pallet stands at the
place with no live move, the occupancy of a room is one more, and no other fact changes. After a pick and a drop no
move that could be released is left, no coil of a room the move named is in ARMED while the room is quiet, and the
alarm list shows the present truth of the move's two conditions (log entry 11). DROPPED of a move not PICKED is
answered WRONG_STATE, and so is one at a trailer whose door is in BREACH, or at the destination trailer with its door
not in OPEN; one in TRANSIT, at another trailer, or at another room that is held or does not accept the pallet is
answered WRONG_PLACE; PICKED and DROPPED without a move of the tag are answered NO_SUCH; nothing changes. -/
def Obligations.MovesArePickedAndDropped : Prop :=
  ∀ (s : State) (ft : Byte) (t : Word32), s.part.running = true → s.part.hasPlace .floor → t ≠ 0#32 →
   (s.part.move? t.toNat = none →
    exec (.picked .floor ft t) s = .next (s.answered s.part .floor 0x13#8 ft .noSuch []) ∧
    ∀ loc : RawLoc, (loc? loc).isSome = true →
      exec (.dropped .floor ft t loc) s = .next (s.answered s.part .floor 0x14#8 ft .noSuch [])) ∧
   ∀ m : Move, s.part.move? t.toNat = some m →
    (m.state = .released → (∀ d, m.source = .trailer d → (s.part.door d).state ≠ .breach) → s.part.MovesMatch →
      ∃ q : Part, exec (.picked .floor ft t) s = .next (s.answered q .floor 0x13#8 ft .done []) ∧
        q.move? t.toNat = some { m with state := .picked, stateStamp := s.part.now,
                                        lanes := m.lanes.filter fun d => decide (m.source ≠ .trailer d) } ∧
        q.moves.map (·.tag) = s.part.moves.map (·.tag) ∧
        q.NoMoveLeft ∧ q.MoveShown t.toNat ∧ (∀ r, m.source = .room r ∨ m.dest = .room r → q.NoArmedLeft r) ∧
        (∀ r, m.source = .room r → q.facts = ((s.part.updPallet t.toNat fun x =>
          { x with loc := .transit }).updRoom r fun y => { y with occupancy := y.occupancy - 1 }).facts) ∧
        ((∀ r, m.source ≠ .room r) →
          q.facts = (s.part.updPallet t.toNat fun x => { x with loc := .transit }).facts)) ∧
    (m.state = .picked → exec (.picked .floor ft t) s = .next (s.answered s.part .floor 0x13#8 ft .done [])) ∧
    (m.state = .queued → exec (.picked .floor ft t) s = .next (s.answered s.part .floor 0x13#8 ft
      (if m.recalls = 0 then .wrongState else .tooLate) [])) ∧
    (m.state = .released → (∃ d, m.source = .trailer d ∧ (s.part.door d).state = .breach) →
      exec (.picked .floor ft t) s = .next (s.answered s.part .floor 0x13#8 ft .wrongState [])) ∧
    (∀ (loc : RawLoc) (x : Loc), loc? loc = some x →
      let answered : AnswerCode → Prop := fun c =>
        exec (.dropped .floor ft t loc) s = .next (s.answered s.part .floor 0x14#8 ft c [])
      (m.state ≠ .picked → answered .wrongState) ∧
      (m.state = .picked →
        (∀ d, x = .trailer d →
          ((s.part.door d).state = .breach ∨ (x = m.dest ∧ (s.part.door d).state ≠ .opened) → answered .wrongState) ∧
          ((s.part.door d).state ≠ .breach → x ≠ m.dest → answered .wrongPlace)) ∧
        (∀ r, x = .room r → x ≠ m.dest → ((s.part.room r).hold = true ∨
          ∃ y, s.part.pallet? t.toNat = some y ∧ s.part.accepts r y.cls y.breached = false) → answered .wrongPlace) ∧
        (x = .transit → answered .wrongPlace))) ∧
    (∀ (loc : RawLoc) (x : Loc), m.state = .picked → loc? loc = some x →
      ((∃ d, x = .trailer d ∧ x = m.dest ∧ (s.part.door d).state = .opened) ∨
        ∃ r, x = .room r ∧ (x = m.dest ∨ (s.part.room r).hold = false ∧
          ∃ y, s.part.pallet? t.toNat = some y ∧ s.part.accepts r y.cls y.breached = true)) →
      ∃ q : Part, exec (.dropped .floor ft t loc) s = .next (s.answered q .floor 0x14#8 ft .done []) ∧
        q.move? t.toNat = none ∧ (∀ y ∈ q.pallets, y.tag = t.toNat → y.live = false ∧ y.loc = x) ∧
        q.NoMoveLeft ∧ q.MoveShown t.toNat ∧ (∀ r, m.source = .room r ∨ m.dest = .room r → q.NoArmedLeft r) ∧
        (∀ d, x = .trailer d → q.facts = (s.part.updPallet t.toNat fun y => { y with loc := x }).facts) ∧
        ∀ r, x = .room r → q.facts = ((s.part.updPallet t.toNat fun y =>
          { y with loc := x }).updRoom r fun y => { y with occupancy := y.occupancy + 1 }).facts)

/-- The field each setting number writes, the range of each, and BAD_VALUE for a request with a value out of range.
For every group, an item with the number of one of the group's settings writes that one field with its value where the
value lies in the setting's range, and is refused where it does not; an item with any other number is refused (none of
a room setting is -1; a report mode of LEVEL is for a level kind alone). The items of a request are taken one after
another, a request that names a setting number twice or holds one refused item is refused whole, and in every group
such a request, from a link that may send it, with the group unlocked and its object in range, is answered BAD_VALUE
and changes nothing; so is a SET TRUCKS outside 1..32, and a SET PROFILE with a span outside 5..600 or a segment byte
with bit 6 set. -/
def Obligations.SettingRanges : Prop :=
  (∀ (x : RoomSettings) (v : Int),
    let give := settingGiven roomItem x
    give 1 v = (if v = 0 then some { x with role := .store } else if v = 1 then some { x with role := .dockHall }
      else none) ∧
    give 2 v = (if v = 0 then some { x with cls := .deep } else if v = 1 then some { x with cls := .frozen }
      else if v = 2 then some { x with cls := .chilled } else if v = 3 then some { x with cls := .cool } else none) ∧
    give 3 v = within (-500) 500 v { x with alarmLimit := v } ∧
    give 4 v = within (-500) 500 v { x with recoverLimit := v } ∧
    give 5 v = within 1 16 v { x with filterWeight := v.toNat } ∧
    give 6 v = within (-50) 50 v { x with sampleOffset := v } ∧
    give 7 v = within 30 1800 v { x with staleLimit := v.toNat } ∧
    give 8 v = within 0 100 v { x with staleBias := v.toNat } ∧
    give 9 v = within 0 1800 v { x with qualify := v.toNat } ∧
    give 10 v = within 0 8 v { x with doorBudget := v.toNat } ∧
    give 11 v = within 0 4000 v { x with capacity := v.toNat } ∧
    give 12 v = within 1 9999999 v { x with exposureBudget := v.toNat } ∧
    ∀ n, n = 0 ∨ 12 < n → give n v = none) ∧
  (∀ (x : DoorSettings) (v : Int),
    let give := settingGiven doorItem x
    (v = -1 → give 1 v = some { x with innerRoom := none }) ∧
    (∀ r : RoomId, v = (r.val : Int) → give 1 v = some { x with innerRoom := some r }) ∧
    (v < -1 ∨ 7 < v → give 1 v = none) ∧
    give 2 v = within 30 3600 v { x with openLimit := v.toNat } ∧
    give 3 v = within 1 60 v { x with sealQualify := v.toNat } ∧
    give 4 v = (if v = 0 then some { x with sealMode := .normal }
      else if v = 1 then some { x with sealMode := .latched } else none) ∧
    give 5 v = (if v = 0 then some { x with autoClose := false } else if v = 1 then some { x with autoClose := true }
      else none) ∧
    ∀ n, n = 0 ∨ 5 < n → give n v = none) ∧
  (∀ (x : CoilSettings) (v : Int),
    let give := settingGiven coilItem x
    (v = -1 → give 1 v = some { x with room := none }) ∧
    (∀ r : RoomId, v = (r.val : Int) → give 1 v = some { x with room := some r }) ∧
    (v < -1 ∨ 7 < v → give 1 v = none) ∧
    give 2 v = (if v = 0 then some { x with role := .alone } else if v = 1 then some { x with role := .lead }
      else if v = 2 then some { x with role := .follow } else none) ∧
    give 3 v = (if v = 0 then some { x with interval := 0 } else within 30 2880 v { x with interval := v.toNat }) ∧
    give 4 v = within 5 90 v { x with defrostMax := v.toNat } ∧
    give 5 v = within 0 20 v { x with drip := v.toNat } ∧
    give 6 v = within 5 120 v { x with recoverTime := v.toNat } ∧
    ∀ n, n = 0 ∨ 6 < n → give n v = none) ∧
  (∀ (x : PlantSettings) (v : Int),
    let give := settingGiven plantItem x
    give 1 v = within 1 4 v { x with slotLimit := v.toNat } ∧
    give 2 v = within 0 1439 v { x with windowStart := v.toNat } ∧
    give 3 v = within 0 1439 v { x with windowEnd := v.toNat } ∧
    give 4 v = (if v = 0 then some { x with deferLimit := 0 } else within 10 600 v { x with deferLimit := v.toNat }) ∧
    give 5 v = (if v = 0 then some { x with forceLimit := 0 } else within 30 1440 v { x with forceLimit := v.toNat }) ∧
    give 6 v = (if v = 0 then some { x with armLimit := 0 } else within 5 120 v { x with armLimit := v.toNat }) ∧
    ∀ n, n = 0 ∨ 6 < n → give n v = none) ∧
  (∀ (x : FloorSettings) (v : Int),
    let give := settingGiven floorItem x
    (v = -1 → give 1 v = some { x with transitRoom := none } ∧ give 2 v = some { x with quarantineRoom := none }) ∧
    (∀ r : RoomId, v = (r.val : Int) → give 1 v = some { x with transitRoom := some r } ∧
      give 2 v = some { x with quarantineRoom := some r }) ∧
    (v < -1 ∨ 7 < v → give 1 v = none ∧ give 2 v = none) ∧
    give 3 v = within (-100) 100 v { x with transitOffset := v } ∧
    give 4 v = within 1 32 v { x with truckLimit := v.toNat } ∧
    give 5 v = within 1 8 v { x with share := v.toNat } ∧
    give 6 v = within 30 1800 v { x with pickLimit := v.toNat } ∧
    give 7 v = within 60 3600 v { x with transitLimit := v.toNat } ∧
    give 8 v = within 60 7200 v { x with stallLimit := v.toNat } ∧
    ∀ n, n = 0 ∨ 8 < n → give n v = none) ∧
  (∀ (x : ClassRow) (v : Int),
    let give := settingGiven classItem x
    give 1 v = within (-500) 500 v { x with limit := v } ∧
    give 2 v = within 1 9999999 v { x with budget := v.toNat } ∧
    ∀ n, n = 0 ∨ 2 < n → give n v = none) ∧
  (∀ (level : Bool) (x : Route) (v : Int),
    let give := settingGiven (routeItem level) x
    give 1 v = (if v = 0 then some { x with masked := true } else if v = 1 then some { x with masked := false }
      else none) ∧
    give 2 v = (if v = 0 ∧ level = true then some { x with mode := .level }
      else if v = 1 then some { x with mode := .edge } else none) ∧
    give 3 v = (if v = 0 then some { x with ack := .plant } else if v = 1 then some { x with ack := .dock }
      else if v = 2 then some { x with ack := .floor } else none) ∧
    (give 4 v).isSome = decide (0 ≤ v ∧ v ≤ 7) ∧
    (∀ y, give 4 v = some y → y = { x with copies := y.copies } ∧
      ∀ l, y.copies.getLsbD (linkIndex l).val = v.toNat.testBit (linkIndex l).val) ∧
    give 5 v = within 1 255 v { x with code := v.toNat } ∧
    ∀ n, n = 0 ∨ 5 < n → give n v = none) ∧
  (∀ {σ : Type} (rule : ItemRule σ) (x : σ), newSettings rule [] x = some x ∧
    (∀ i, newSettings rule [i] x = settingGiven rule x i.num.toNat i.value.toInt) ∧
    (∀ (i : Item) (rest : List Item), i.num ∉ rest.map (·.num) →
      newSettings rule (i :: rest) x = (newSettings rule [i] x).bind fun y => newSettings rule rest y) ∧
    (∀ items : List Item, ¬(items.map (·.num)).Nodup → newSettings rule items x = none) ∧
    ∀ items : List Item, (∃ i ∈ items, (rule i.num.toNat i.value.toInt).isNone = true) →
      newSettings rule items x = none) ∧
  (∀ (s : State) (l : Link) (ft b : Byte) (items : List Item), s.part.hasPlace l → 1 ≤ items.length →
    (∀ r, items.length ≤ 12 → (s.part.running = true → maySetRoom l items = true) → s.part.locked .room = false →
      room? b = some r → newSettings roomItem items (s.part.roomSet r) = none →
      exec (.setRoom l ft b items) s = .next (s.answered s.part l 0x15#8 ft .badValue [])) ∧
    (∀ d, items.length ≤ 5 → (s.part.running = true → l = .dock) → s.part.locked .door = false →
      door? b = some d → newSettings doorItem items (s.part.doorSet d) = none →
      exec (.setDoor l ft b items) s = .next (s.answered s.part l 0x16#8 ft .badValue [])) ∧
    (∀ c, items.length ≤ 6 → (s.part.running = true → l = .plant ∧ ∀ i ∈ items, i.num ≠ 1#8 ∧ i.num ≠ 2#8) →
      s.part.locked .coil = false → coil? b = some c → newSettings coilItem items (s.part.coilSet c) = none →
      exec (.setCoil l ft b items) s = .next (s.answered s.part l 0x18#8 ft .badValue [])) ∧
    (items.length ≤ 6 → (s.part.running = true → l = .plant ∧ ∀ i ∈ items, i.num ≠ 1#8) →
      s.part.locked .plant = false → newSettings plantItem items s.part.store.plant = none →
      exec (.setPlant l ft items) s = .next (s.answered s.part l 0x19#8 ft .badValue [])) ∧
    (items.length ≤ 8 → (s.part.running = true → l = .floor ∧ ∀ i ∈ items, i.num ≠ 1#8 ∧ i.num ≠ 2#8) →
      s.part.locked .floor = false → newSettings floorItem items s.part.store.floor = none →
      exec (.setFloor l ft items) s = .next (s.answered s.part l 0x1A#8 ft .badValue [])) ∧
    (∀ k, items.length ≤ 2 → s.part.running = false → s.part.locked .cls = false → class? b = some k →
      newSettings classItem items (s.part.classRow k) = none →
      exec (.setClass l ft b items) s = .next (s.answered s.part l 0x1C#8 ft .badValue [])) ∧
    ∀ k, items.length ≤ 5 → (s.part.running = true → l = (s.part.route k).ack) → s.part.locked .route = false →
      kind? b = some k → newSettings (routeItem k.isLevel) items (s.part.route k) = none →
      exec (.setRoute l ft b items) s = .next (s.answered s.part l 0x1D#8 ft .badValue [])) ∧
  ∀ (s : State) (l : Link) (ft b n : Byte) (span : Word16) (bs : List Byte), s.part.hasPlace l →
    ((s.part.running = true → l = .floor) → s.part.locked .floor = false → n.toNat = 0 ∨ 32 < n.toNat →
      exec (.setTrucks l ft n) s = .next (s.answered s.part l 0x1B#8 ft .badValue [])) ∧
    ((s.part.running = true → l = .dock) → s.part.locked .door = false → (door? b).isSome = true → bs.length = 8 →
      span.toNat < 5 ∨ 600 < span.toNat ∨ (∃ x ∈ bs, x.getLsbD 6 = true) →
      exec (.setProfile l ft b span bs) s = .next (s.answered s.part l 0x17#8 ft .badValue []))

/-- SET ROOM gives the carried settings their values. From a link that may set all it carries (any link in SETUP),
with the ROOM group unlocked, the settings in range and the live limits kept, SET ROOM is answered DONE and the
settings of the room are the new ones; in SETUP, and where neither the door budget is raised nor the capacity or class
differs, that is all it does; no coil and no other fact changes in any case. In RUN, after a raised door budget no
door of the room waits that could be granted, and after another capacity or class no move that could be released is
left. A capacity below occupancy plus reservations, or a door budget below the granted count, is answered WRONG_STATE
and changes nothing. -/
def Obligations.RoomSettingsAreSet : Prop :=
  ∀ (s : State) (l : Link) (ft b : Byte) (r : RoomId) (items : List Item) (x : RoomSettings), s.part.hasPlace l →
    1 ≤ items.length → items.length ≤ 12 → (s.part.running = true → maySetRoom l items = true) →
    s.part.locked .room = false → room? b = some r → newSettings roomItem items (s.part.roomSet r) = some x →
    let capacityKept := carries items 11 = true → (s.part.room r).occupancy + (s.part.room r).reservations ≤ x.capacity
    let budgetKept := carries items 10 = true → (s.part.room r).granted ≤ x.doorBudget
    (capacityKept → budgetKept → ∃ q : Part,
      exec (.setRoom l ft b items) s = .next (s.answered q l 0x15#8 ft .done []) ∧
      q.store = (s.part.setRoomSet r x).store ∧ q.facts = (s.part.setRoomSet r x).facts ∧ q.coils = s.part.coils ∧
      (s.part.running = false → q = s.part.setRoomSet r x) ∧
      (s.part.running = true → (s.part.roomSet r).doorBudget < x.doorBudget → q.NoDoorLeft r) ∧
      (s.part.running = true → (x.cls ≠ (s.part.roomSet r).cls ∨ x.capacity ≠ (s.part.roomSet r).capacity) →
        q.NoMoveLeft) ∧
      (x.doorBudget ≤ (s.part.roomSet r).doorBudget → x.capacity = (s.part.roomSet r).capacity →
        x.cls = (s.part.roomSet r).cls → q = s.part.setRoomSet r x)) ∧
    (¬(capacityKept ∧ budgetKept) →
      exec (.setRoom l ft b items) s = .next (s.answered s.part l 0x15#8 ft .wrongState []))

/-- SET DOOR, SET PROFILE, SET COIL and SET CLASS give the carried settings their values. From any link in SETUP and
from the owning link in RUN (SET COIL in RUN without the room or the group role, SET CLASS in SETUP alone), with the
group unlocked and the values in range, each is answered DONE and replaces the settings of its object, and nothing
else. A door's inner room differs from the held one only at a door VACANT or in SERVICE, its seal mode only outside
BREACH; otherwise the answer is WRONG_STATE and nothing changes. -/
def Obligations.DoorCoilAndClassSettingsAreSet : Prop :=
  ∀ (s : State) (l : Link) (ft b : Byte) (items : List Item), s.part.hasPlace l →
    (∀ (d : DoorId) (x : DoorSettings), 1 ≤ items.length → items.length ≤ 5 → (s.part.running = true → l = .dock) →
      s.part.locked .door = false → door? b = some d → newSettings doorItem items (s.part.doorSet d) = some x →
      let kept := (x.innerRoom ≠ (s.part.doorSet d).innerRoom →
          (s.part.door d).state = .vacant ∨ (s.part.door d).state = .service) ∧
        (x.sealMode ≠ (s.part.doorSet d).sealMode → (s.part.door d).state ≠ .breach)
      (kept → exec (.setDoor l ft b items) s =
        .next (s.answered (s.part.setDoorSet d x) l 0x16#8 ft .done [])) ∧
      (¬kept → exec (.setDoor l ft b items) s = .next (s.answered s.part l 0x16#8 ft .wrongState []))) ∧
    (∀ (d : DoorId) (span : Word16) (bs : List Byte) (v : Vector Int 8), (s.part.running = true → l = .dock) →
      s.part.locked .door = false → door? b = some d → 5 ≤ span.toNat → span.toNat ≤ 600 → bs.length = 8 →
      (∀ i : Fin 8, ∃ m : Nat, m ≤ 63 ∧
        ((bs[i.val]? = some (BitVec.ofNat 8 m) ∧ v[i] = (m : Int)) ∨
          (bs[i.val]? = some (BitVec.ofNat 8 (128 + m)) ∧ v[i] = -(m : Int)))) →
      exec (.setProfile l ft b span bs) s = .next (s.answered
        (s.part.setDoorSet d { s.part.doorSet d with span := span.toNat, segments := v }) l 0x17#8 ft .done [])) ∧
    (∀ (c : CoilId) (x : CoilSettings), 1 ≤ items.length → items.length ≤ 6 →
      (s.part.running = true → l = .plant ∧ ∀ i ∈ items, i.num ≠ 1#8 ∧ i.num ≠ 2#8) →
      s.part.locked .coil = false → coil? b = some c → newSettings coilItem items (s.part.coilSet c) = some x →
      exec (.setCoil l ft b items) s = .next (s.answered (s.part.setCoilSet c x) l 0x18#8 ft .done [])) ∧
    ∀ (k : PClass) (x : ClassRow), 1 ≤ items.length → items.length ≤ 2 → s.part.running = false →
      s.part.locked .cls = false → class? b = some k → newSettings classItem items (s.part.classRow k) = some x →
      exec (.setClass l ft b items) s = .next (s.answered (s.part.setClassRow k x) l 0x1C#8 ft .done [])

/-- SET PLANT, SET FLOOR and SET TRUCKS give the carried settings their values. From any link in SETUP and from the
owning link in RUN (without the slot limit, the transit room or the quarantine room), with the group unlocked and the
values in range, each is answered DONE and the site's settings are the new ones; in SETUP that is all it does, and in
RUN the facts are those of the settings set. SET TRUCKS and a carried truck limit below the truck count are answered
WRONG_STATE and change nothing; a truck limit that is not raised starts no release, and after one raised in RUN no
move that could be released is left; after a SET PLANT in RUN, with the DUE queue matching the coil table, no eligible
coil is left waiting beside a free slot. In RUN a carried defer limit examines DEFROST DEFERRED of every coil, a
carried arm limit DEFROST BLOCKED of every coil, and a carried transit or stall limit the two conditions of every
move: the alarm list then shows their present truth (log entry 11). -/
def Obligations.PlantAndFloorSettingsAreSet : Prop :=
  ∀ (s : State) (l : Link) (ft : Byte) (items : List Item), s.part.hasPlace l →
    (∀ x : PlantSettings, 1 ≤ items.length → items.length ≤ 6 →
      (s.part.running = true → l = .plant ∧ ∀ i ∈ items, i.num ≠ 1#8) → s.part.locked .plant = false →
      newSettings plantItem items s.part.store.plant = some x →
      ∃ q : Part, exec (.setPlant l ft items) s = .next (s.answered q l 0x19#8 ft .done []) ∧
        q.store.plant = x ∧ q.facts = (s.part.setPlantSet x).facts ∧
        (s.part.running = true → s.part.DueQueueMatches → q.NoCoilLeft) ∧
        (s.part.running = true → carries items 4 = true → ∀ c : CoilId, q.Shows .defrostDeferred c.val) ∧
        (s.part.running = true → carries items 6 = true → ∀ c : CoilId, q.Shows .defrostBlocked c.val) ∧
        (s.part.running = false → q = s.part.setPlantSet x)) ∧
    (∀ x : FloorSettings, 1 ≤ items.length → items.length ≤ 8 →
      (s.part.running = true → l = .floor ∧ ∀ i ∈ items, i.num ≠ 1#8 ∧ i.num ≠ 2#8) → s.part.locked .floor = false →
      newSettings floorItem items s.part.store.floor = some x →
      ((carries items 4 = false ∨ s.part.trucks ≤ x.truckLimit) →
        ∃ q : Part, exec (.setFloor l ft items) s = .next (s.answered q l 0x1A#8 ft .done []) ∧
          q.store.floor = x ∧ q.facts = (s.part.setFloorSet x).facts ∧ q.coils = s.part.coils ∧
          (x.truckLimit ≤ s.part.store.floor.truckLimit → q.moves = s.part.moves ∧ q.trucks = s.part.trucks) ∧
          (s.part.running = true → s.part.store.floor.truckLimit < x.truckLimit → q.NoMoveLeft) ∧
          (s.part.running = true → carries items 7 = true ∨ carries items 8 = true →
            ∀ u ∈ q.moves.map (·.tag), q.MoveShown u) ∧
          (s.part.running = false → q = s.part.setFloorSet x)) ∧
      (carries items 4 = true → x.truckLimit < s.part.trucks →
        exec (.setFloor l ft items) s = .next (s.answered s.part l 0x1A#8 ft .wrongState []))) ∧
    ∀ n : Byte, 1 ≤ n.toNat → n.toNat ≤ 32 → (s.part.running = true → l = .floor) → s.part.locked .floor = false →
      (s.part.trucks ≤ n.toNat → ∃ q : Part,
        exec (.setTrucks l ft n) s = .next (s.answered q l 0x1B#8 ft .done []) ∧
        q.store.floor = { s.part.store.floor with truckLimit := n.toNat } ∧
        q.facts = (s.part.setFloorSet { s.part.store.floor with truckLimit := n.toNat }).facts ∧
        q.coils = s.part.coils ∧
        (s.part.running = true → s.part.store.floor.truckLimit < n.toNat → q.NoMoveLeft) ∧
        (n.toNat ≤ s.part.store.floor.truckLimit →
          q = s.part.setFloorSet { s.part.store.floor with truckLimit := n.toNat })) ∧
      (n.toNat < s.part.trucks →
        exec (.setTrucks l ft n) s = .next (s.answered s.part l 0x1B#8 ft .wrongState []))

/-- SET ROUTE gives a route its fields, and LOCK fixes a group. From any link in SETUP and from the route's
acknowledging link in RUN, with the ROUTE group unlocked and the fields in range, SET ROUTE is answered DONE and the
route has the new fields; in SETUP, and for a route that stays masked, no alarm is made; in RUN, where the route is
unmasked or changed from EDGE to LEVEL, every object of a level kind whose condition is true is listed afterwards, but
for the pairs still settled, which a change to LEVEL takes out; no alarm leaves the list and no other fact changes.
LOCK of a group is answered DONE from any link in either mode and sets the one lock; LOCK of a group that is none of
the seven is answered BAD_VALUE and changes nothing. Every request that a set lock governs and that passes its mode
and link checks is answered LOCKED and changes nothing: SET ROOM, SET DOOR, SET PROFILE, SET COIL, STAGE COIL TIMING,
SET PLANT, SET FLOOR, SET TRUCKS, SET CLASS and SET ROUTE, whatever object and values it names. -/
def Obligations.RoutesAreSetAndGroupsLocked : Prop :=
  (∀ (s : State) (l : Link) (ft b : Byte) (items : List Item) (k : Kind) (x : Route), s.part.hasPlace l →
    1 ≤ items.length → items.length ≤ 5 → kind? b = some k → (s.part.running = true → l = (s.part.route k).ack) →
    s.part.locked .route = false → newSettings (routeItem k.isLevel) items (s.part.route k) = some x →
    ∃ q : Part, exec (.setRoute l ft b items) s = .next (s.answered q l 0x1D#8 ft .done []) ∧
      q.route k = x ∧ q.facts = (s.part.setRoute k x).facts ∧ q.coils = s.part.coils ∧
      (∀ a ∈ s.part.alarms, a ∈ q.alarms) ∧ (x.masked = true → q.alarms = s.part.alarms) ∧
      (let toLevel := (s.part.route k).mode = .edge ∧ x.mode = .level;
        (s.part.running = true → toLevel → ∀ o, (k, o) ∉ q.settled) ∧
        (s.part.running = true → toLevel ∨ ((s.part.route k).masked = true ∧ x.masked = false) → k.isLevel = true →
          ∀ o, q.condition k o = true → (k, o) ∉ q.settled → q.Listed k o)) ∧
      (s.part.running = false → q = s.part.setRoute k x)) ∧
  (∀ (s : State) (l : Link) (ft b : Byte) (g : Group), s.part.hasPlace l → group? b = some g →
    exec (.lock l ft b) s = .next (s.answered (s.part.setLock g) l 0x1E#8 ft .done [])) ∧
  (∀ (s : State) (l : Link) (ft b : Byte), s.part.hasPlace l → 7 ≤ b.toNat →
    exec (.lock l ft b) s = .next (s.answered s.part l 0x1E#8 ft .badValue [])) ∧
  (∀ (p : Part) (g h : Group), (p.setLock g).locked h = (decide (h = g) || p.locked h)) ∧
  (∀ (s : State) (l : Link) (ft b : Byte) (items : List Item), s.part.hasPlace l → 1 ≤ items.length →
    (items.length ≤ 12 → (s.part.running = true → maySetRoom l items = true) → s.part.locked .room = true →
      exec (.setRoom l ft b items) s = .next (s.answered s.part l 0x15#8 ft .locked [])) ∧
    (items.length ≤ 5 → (s.part.running = true → l = .dock) → s.part.locked .door = true →
      exec (.setDoor l ft b items) s = .next (s.answered s.part l 0x16#8 ft .locked [])) ∧
    (items.length ≤ 6 → (s.part.running = true → l = .plant ∧ ∀ i ∈ items, i.num ≠ 1#8 ∧ i.num ≠ 2#8) →
      s.part.locked .coil = true →
      exec (.setCoil l ft b items) s = .next (s.answered s.part l 0x18#8 ft .locked [])) ∧
    (items.length ≤ 6 → (s.part.running = true → l = .plant ∧ ∀ i ∈ items, i.num ≠ 1#8) →
      s.part.locked .plant = true →
      exec (.setPlant l ft items) s = .next (s.answered s.part l 0x19#8 ft .locked [])) ∧
    (items.length ≤ 8 → (s.part.running = true → l = .floor ∧ ∀ i ∈ items, i.num ≠ 1#8 ∧ i.num ≠ 2#8) →
      s.part.locked .floor = true →
      exec (.setFloor l ft items) s = .next (s.answered s.part l 0x1A#8 ft .locked [])) ∧
    (items.length ≤ 2 → s.part.running = false → s.part.locked .cls = true →
      exec (.setClass l ft b items) s = .next (s.answered s.part l 0x1C#8 ft .locked [])) ∧
    (items.length ≤ 5 → (s.part.running = true → ∃ k, kind? b = some k ∧ l = (s.part.route k).ack) →
      s.part.locked .route = true →
      exec (.setRoute l ft b items) s = .next (s.answered s.part l 0x1D#8 ft .locked []))) ∧
  ∀ (s : State) (l : Link) (ft b n m : Byte) (i span : Word16) (bs : List Byte), s.part.hasPlace l →
    ((s.part.running = true → l = .dock) → s.part.locked .door = true → bs.length = 8 →
      exec (.setProfile l ft b span bs) s = .next (s.answered s.part l 0x17#8 ft .locked [])) ∧
    (s.part.running = true → l = .plant → s.part.locked .coil = true →
      exec (.stageCoilTiming l ft b n i m) s = .next (s.answered s.part l 0x04#8 ft .locked [])) ∧
    ((s.part.running = true → l = .floor) → s.part.locked .floor = true →
      exec (.setTrucks l ft n) s = .next (s.answered s.part l 0x1B#8 ft .locked []))

/-- SET CLOCK sets the clock and nothing else. From any link in either mode, SET CLOCK with a second of day of 86400
or more is answered BAD_VALUE and changes nothing (a day carried in two bytes is always in range); otherwise it is
answered DONE, the clock takes the day and the second, the minute of day follows, and nothing else changes: not the
run seconds, not the tick or the minute event issued, no timer, stamp or age, and no coil is armed. The minute event
of RUN, which ends in the grant pass, and every grant pass after the change read the new minute of day. -/
def Obligations.ClockIsSet : Prop :=
  ∀ (s : State) (l : Link) (ft : Byte) (day : Word16) (second : Word32), s.part.hasPlace l →
    day.toNat ≤ 65535 ∧
    (86400 ≤ second.toNat →
      exec (.setClock l ft day second) s = .next (s.answered s.part l 0x29#8 ft .badValue [])) ∧
    (second.toNat < 86400 → ∃ q : Part,
      exec (.setClock l ft day second) s = .next (s.answered q l 0x29#8 ft .done []) ∧
      q = { s.part with time := { s.part.time with day := day.toNat, second := second.toNat } } ∧
      q.minute = second.toNat / 60 ∧ q.now = s.part.now ∧ q.coils = s.part.coils ∧
      (∀ c, q.slotEligible c = (!s.part.store.plant.inWindow (second.toNat / 60) ||
        (s.part.store.plant.forceLimit != 0 &&
          decide (s.part.store.plant.forceLimit ≤ (s.part.coil c).waitMinutes)))) ∧
      ∃ f : Part → Part, ∀ p : Part, p.running = true → p.minuteWork = (f p).slotPass)

/-- The nine reads answer with the records as they stand, every field at its offset. From any link in either mode a
read of an object, tag or page is answered DONE with its record and changes nothing. A room, door or coil out of
range, a tag without a record, and an object outside the objects of its settings group are answered NO_SUCH, a tag of
0 and a group that is none of the seven BAD_VALUE, and change nothing. READ ROOM, READ DOOR, READ COIL, READ PALLET,
READ STATUS, and each record of READ MOVES and READ ALARMS are of the size their layouts give and hold every field at
its offset, in its encoding; a page holds the total, the starting index as carried, the number of records and those
records. READ CHANGES carries the sending link's change set and clears it. READ STATUS carries the resync flag as it
stood, its flags show it, and the flag is then cleared. READ SETTINGS carries the group, the object as carried, the
lock, and every setting of the group in the order of the setting numbers. Which of the two lane bytes of a move record
a PICKED move's one lane stands in is the model's reading (log entry 26), an absent open start reads as now (log entry
22), and that a segment of 0 is sent as 0x00, however it was set, is its choice (log entry 37). -/
def Obligations.ReadsAnswerTheRecords : Prop :=
  (∀ (s : State) (l : Link) (ft b : Byte), s.part.hasPlace l →
    (8 ≤ b.toNat → exec (.readRoom l ft b) s = .next (s.answered s.part l 0x1F#8 ft .noSuch [])) ∧
    (16 ≤ b.toNat → exec (.readDoor l ft b) s = .next (s.answered s.part l 0x20#8 ft .noSuch [])) ∧
    (12 ≤ b.toNat → exec (.readCoil l ft b) s = .next (s.answered s.part l 0x21#8 ft .noSuch [])) ∧
    exec (.readPallet l ft 0#32) s = .next (s.answered s.part l 0x22#8 ft .badValue []) ∧
    (∀ t : Word32, t ≠ 0#32 → s.part.pallet? t.toNat = none →
      exec (.readPallet l ft t) s = .next (s.answered s.part l 0x22#8 ft .noSuch [])) ∧
    (∀ o : Byte,
      (7 ≤ b.toNat → exec (.readSettings l ft b o) s = .next (s.answered s.part l 0x27#8 ft .badValue [])) ∧
      (b = 0#8 ∧ 8 ≤ o.toNat ∨ b = 1#8 ∧ 16 ≤ o.toNat ∨ b = 2#8 ∧ 12 ≤ o.toNat ∨ b = 5#8 ∧ 4 ≤ o.toNat ∨
          b = 6#8 ∧ (o = 0#8 ∨ 14 ≤ o.toNat) →
        exec (.readSettings l ft b o) s = .next (s.answered s.part l 0x27#8 ft .noSuch []))) ∧
    (∀ r, room? b = some r →
      exec (.readRoom l ft b) s = .next (s.answered s.part l 0x1F#8 ft .done (roomRecord s.part r))) ∧
    (∀ d, door? b = some d →
      exec (.readDoor l ft b) s = .next (s.answered s.part l 0x20#8 ft .done (doorRecord s.part d))) ∧
    (∀ c, coil? b = some c →
      exec (.readCoil l ft b) s = .next (s.answered s.part l 0x21#8 ft .done (coilRecord s.part c))) ∧
    (∀ (t : Word32) (x : Pallet), t ≠ 0#32 → s.part.pallet? t.toNat = some x →
      exec (.readPallet l ft t) s = .next (s.answered s.part l 0x22#8 ft .done (palletRecord s.part x))) ∧
    (let here := (s.part.moves.drop b.toNat).take 8;
      exec (.readMoves l ft b) s = .next (s.answered s.part l 0x23#8 ft .done
        (unsignedField 1 s.part.moves.length ++ [b] ++ unsignedField 1 here.length ++
          here.flatMap (moveRecord s.part)))) ∧
    (let here := (s.part.alarms.drop b.toNat).take 8;
      exec (.readAlarms l ft b) s = .next (s.answered s.part l 0x24#8 ft .done
        (unsignedField 1 s.part.alarms.length ++ [b] ++ unsignedField 1 here.length ++
          here.flatMap (alarmRecord s.part)))) ∧
    exec (.readStatus l ft) s = .next { s with part :=
      ((s.part.answer l 0x25#8 ft { code := .done, result := statusRecord s.part l }).updLink l fun k =>
        { k with resync := false }).startSending } ∧
    exec (.readChanges l ft) s = .next (s.answered (s.part.updChange l fun _ =>
      { doors := 0#16, rooms := 0#8, coils := 0#12 }) l 0x26#8 ft .done
        (unsignedField 2 (s.part.change l).doors.toNat ++ unsignedField 1 (s.part.change l).rooms.toNat ++
          unsignedField 2 (s.part.change l).coils.toNat))) ∧
  (∀ (s : State) (l : Link) (ft o : Byte), s.part.hasPlace l →
    let number : Option RoomId → Int := fun r => (r.map fun n => (n.val : Int)).getD (-1)
    let settings : Byte → Group → List Int → List Byte → Prop := fun b g vs rest =>
      exec (.readSettings l ft b o) s = .next (s.answered s.part l 0x27#8 ft .done
        ([b, o, if s.part.locked g then 1#8 else 0#8] ++ vs.flatMap (signedField 4) ++ rest))
    (∀ r, room? o = some r → let x := s.part.roomSet r
      settings 0#8 .room [(if x.role = .store then 0 else 1), (classIndex x.cls).val, x.alarmLimit, x.recoverLimit,
        x.filterWeight, x.sampleOffset, x.staleLimit, x.staleBias, x.qualify, x.doorBudget, x.capacity,
        x.exposureBudget] []) ∧
    (∀ d, door? o = some d → let x := s.part.doorSet d
      settings 1#8 .door [number x.innerRoom, x.openLimit, x.sealQualify, (if x.sealMode = .normal then 0 else 1),
        (if x.autoClose then 1 else 0)] (unsignedField 2 x.span ++ x.segments.toList.map segmentField)) ∧
    (∀ c, coil? o = some c → let x := s.part.coilSet c
      settings 2#8 .coil [number x.room, ([.alone, .lead, .follow] : List GroupRole).idxOf x.role, x.interval,
        x.defrostMax, x.drip, x.recoverTime] []) ∧
    (let x := s.part.store.plant;
      settings 3#8 .plant [x.slotLimit, x.windowStart, x.windowEnd, x.deferLimit, x.forceLimit, x.armLimit] []) ∧
    (let x := s.part.store.floor;
      settings 4#8 .floor [number x.transitRoom, number x.quarantineRoom, x.transitOffset, x.truckLimit, x.share,
        x.pickLimit, x.transitLimit, x.stallLimit] []) ∧
    (∀ k, class? o = some k → settings 5#8 .cls [(s.part.classRow k).limit, (s.part.classRow k).budget] []) ∧
    ∀ k, kind? o = some k → let x := s.part.route k
      settings 6#8 .route [(if x.masked then 0 else 1), (if x.mode = .level then 0 else 1), (linkIndex x.ack).val,
        x.copies.toNat, x.code] []) ∧
  ∀ (p : Part) (l : Link),
    (∀ r, let x := p.room r
      Laid (roomRecord p r) (22 + x.queue.length) [
        (0, enumField [.store, .dockHall] (p.roomSet r).role),
        (1, enumField [.deep, .frozen, .chilled, .cool] (p.roomSet r).cls),
        (2, signedField 2 x.f),
        (4, bitField [x.seeded, x.stale, x.declared, x.reached, x.hold, x.clamped]),
        (5, unsignedField 1 (match x.last with
          | .absent => 0
          | .fault => 1
          | .value _ => 2)),
        (6, signedField 2 (match x.last with
          | .value v => v
          | _ => 0)),
        (8, unsignedField 2 x.staleCount), (10, unsignedField 2 x.qualifyCount), (12, unsignedField 4 x.exposure),
        (16, unsignedField 2 x.occupancy), (18, unsignedField 1 x.reservations), (19, unsignedField 1 x.openDoors),
        (20, unsignedField 1 x.granted), (21, unsignedField 1 x.queue.length),
        (22, x.queue.flatMap fun d => unsignedField 1 d.val)]) ∧
    (∀ d, let x := p.door d
      Laid (doorRecord p d) 25 [
        (0, enumField [.vacant, .docked, .sealed, .waiting, .opened, .breach, .service] x.state),
        (1, enumField [none, some .sealLoss, some .forced, some .trailer] x.cause),
        (2, bitField [x.trailer, x.reading.isSome, x.engaged, x.rawSeal == .good, x.qualSeal == .good, x.isOpen,
          x.openLong, x.captured.isSome]),
        (3, signedField 2 (x.reading.getD 0)), (5, unsignedField 1 x.sealCount),
        (6, unsignedField 4 (if x.state = .opened ∨ x.state = .breach then p.now - x.openStart.getD p.now else 0)),
        (10, signedField 2 (x.captured.getD 0)),
        (12, enumField [none, some .openLong, some .defrost] x.owed), (13, unsignedField 1 x.sent.toNat),
        (14, unsignedField 4 (x.lane.getD 0)),
        (18, unsignedField 1 (match x.lastOpen with
          | none => 0
          | some z => if z.rise.isSome then 2 else 1)),
        (19, unsignedField 4 ((x.lastOpen.map (·.duration)).getD 0)),
        (23, signedField 2 ((x.lastOpen.bind (·.rise)).getD 0))]) ∧
    (∀ c, let x := p.coil c
      Laid (coilRecord p c) 22 [
        (0, numberField ((p.coilSet c).room.map (·.val))), (1, enumField [.alone, .lead, .follow] (p.coilSet c).role),
        (2, enumField [.cooling, .due, .armed, .defrost, .drip, .recover, .off] x.phase),
        (3, unsignedField 1 x.slot.toNat),
        (4, enumField [none, some .terminated, some .overrun, some .restart] x.lastStop),
        (5, unsignedField 2 x.phaseMinutes), (7, unsignedField 2 x.waitMinutes), (9, unsignedField 2 x.armMinutes),
        (11, unsignedField 4 (x.dueStamp.getD 0)),
        (15, bitField [x.dueStamp.isSome, x.stagedInterval.isSome, x.stagedMax.isSome]),
        (16, unsignedField 2 (x.stagedInterval.getD 0)), (18, unsignedField 1 (x.stagedMax.getD 0)),
        (19, unsignedField 2 (p.coilSet c).interval), (21, unsignedField 1 (p.coilSet c).defrostMax)]) ∧
    (∀ x : Pallet, Laid (palletRecord p x) 22 [
      (0, unsignedField 4 x.tag), (4, enumField [.deep, .frozen, .chilled, .cool] x.cls), (5, locField x.loc),
      (7, unsignedField 4 x.exposure), (11, unsignedField 4 x.budget),
      (15, bitField [x.breached, x.live, x.lastTemp.isSome]), (16, unsignedField 4 (p.now - x.stamp)),
      (20, signedField 2 (x.lastTemp.getD 0))]) ∧
    (∀ m : Move, Laid (moveRecord p m) 24 [
      (0, unsignedField 4 m.tag), (4, locField m.source), (6, locField m.dest),
      (8, enumField [.inbound, .other] m.direction), (9, enumField [.queued, .released, .picked] m.state),
      (10, unsignedField 4 (p.now - m.enqueueStamp)), (14, unsignedField 4 (p.now - m.stateStamp)),
      (18, unsignedField 2 m.pickSeconds), (20, numberField (m.lanes[0]?.map (·.val))),
      (21, numberField (m.lanes[1]?.map (·.val))), (22, numberField (m.reservation.map (·.val))),
      (23, unsignedField 1 m.recalls)]) ∧
    (∀ a : Alarm, Laid (alarmRecord p a) 13 [
      (0, unsignedField 1 (kindNumber a.kind)), (1, unsignedField 1 (p.route a.kind).code),
      (2, enumField [.plant, .dock, .floor] (p.route a.kind).ack), (3, unsignedField 4 a.object),
      (7, unsignedField 4 (p.now - a.stamp)), (11, unsignedField 1 a.repeats),
      (12, enumField [some false, some true, none] a.cond)]) ∧
    Laid (statusRecord p l) (24 + p.due.length) [
      (0, bitField [p.running, (p.link l).resync, decide (64 ≤ p.alarms.length)]),
      (1, unsignedField 1 p.alarms.length), (2, unsignedField 4 p.now), (6, unsignedField 2 p.time.day),
      (8, unsignedField 4 p.time.second), (12, unsignedField 1 (p.link l).notices.length),
      (13, unsignedField 2 p.pallets.length), (15, unsignedField 1 p.moves.length), (16, unsignedField 1 p.trucks),
      (17, unsignedField 1 p.store.floor.truckLimit), (18, enumField [none, some .inbound, some .other] p.dirRun.dir),
      (19, unsignedField 1 p.dirRun.len), (20, unsignedField 1 p.store.plant.slotLimit),
      (21, unsignedField 1 (allCoils.filter fun c => (p.coil c).slot).length),
      (22, bitField [p.locked .room, p.locked .door, p.locked .coil, p.locked .plant, p.locked .floor, p.locked .cls,
        p.locked .route]),
      (23, unsignedField 1 p.due.length), (24, p.due.flatMap fun c => unsignedField 1 c.val)]

/-- ACKNOWLEDGE settles the alarms of its code and link. In RUN, for a code that is not 0, ACKNOWLEDGE is answered
DONE with the number of matched alarms removed and the number notified again: a matched alarm is notified again
exactly where it is of a level kind, its condition now is true, and its route is unmasked and in LEVEL mode. The facts
and the coils stay, and a code that matches nothing changes nothing. With at most one alarm for a kind and object, the
alarms not matched stay in their places as they were, and so do the matched ones notified again, their repeat counts
one more, 255 staying 255; every other matched alarm (of an edge kind, of a condition false, of a masked route, or of
EDGE mode) is removed. The settled set gains the pair of each matched alarm of a level kind whose condition is true
and whose route is unmasked and in EDGE mode, and no other. Where at least one was removed, the re-examination then
adds an alarm of repeat count 1 at the tail for each unmasked level kind and object whose condition is true, that is
neither listed nor settled, until the list is full; otherwise it adds none. Each alarm notified again, in list order,
and then each one added, in the order of the list, queues one ALARM notice on its route's acknowledging link and on
each copy link; no other notice is queued. A removed alarm of an edge kind or of a masked route is not made again, and
of the others only one whose condition is true as its owner now shows it. -/
def Obligations.AcknowledgementSettlesItsAlarms : Prop :=
  ∀ (s : State) (l : Link) (ft code : Byte), s.part.running = true → s.part.hasPlace l → code ≠ 0#8 →
    let hit : Alarm → Bool := fun a => decide ((s.part.route a.kind).code = code.toNat ∧ (s.part.route a.kind).ack = l)
    let again : Alarm → Bool := fun a => decide (a.cond = some true ∧ a.kind.isLevel = true ∧
      (s.part.route a.kind).masked = false ∧ (s.part.route a.kind).mode = .level)
    let matched := s.part.alarms.filter hit
    ∃ q : Part, exec (.acknowledge l ft code) s = .next (s.answered q l 0x28#8 ft .done
        [BitVec.ofNat 8 (matched.filter fun a => !again a).length, BitVec.ofNat 8 (matched.filter again).length]) ∧
      q.facts = s.part.facts ∧ q.coils = s.part.coils ∧ (matched = [] → q = s.part) ∧
      (∀ k o, (k, o) ∈ q.settled ↔ (k, o) ∈ s.part.settled ∨ ∃ a ∈ matched, a.kind = k ∧ a.object = o ∧
        a.cond = some true ∧ k.isLevel = true ∧ (s.part.route k).masked = false ∧ (s.part.route k).mode = .edge) ∧
      (s.part.AlarmsInRange →
        let kept := (s.part.alarms.filter fun a => !hit a || again a).map fun a =>
          if hit a then { a with repeats := if a.repeats < 255 then a.repeats + 1 else a.repeats } else a
        let open_ : Kind → Nat → Prop := fun k o => k.isLevel = true ∧ (s.part.route k).masked = false ∧
          s.part.condition k o = true ∧ (k, o) ∉ q.settled
        let sent : Link → List Alarm → List Notice := fun k as => (as.filter fun a =>
            decide (k = (s.part.route a.kind).ack ∨ (s.part.route a.kind).copies.getLsbD (linkIndex k).val = true)).map
          fun a => .alarm a.kind (s.part.route a.kind).code a.object a.repeats a.cond
            (decide (k ≠ (s.part.route a.kind).ack)) s.part.time.day s.part.time.second
        ∃ made : List Alarm, q.alarms = kept ++ made ∧
          (∀ k, q.link k = (sent k (kept.filter hit ++ made)).foldl LinkState.queue (s.part.link k)) ∧
          ((matched.filter fun a => !again a) = [] → made = []) ∧
          (∀ b ∈ made, open_ b.kind b.object ∧ (∀ a ∈ kept, a.kind = b.kind → a.object ≠ b.object) ∧
            b.stamp = s.part.now ∧ b.repeats = 1 ∧ b.cond = some true) ∧
          ((matched.filter fun a => !again a) ≠ [] → q.alarms.length < 64 → ∀ k o, open_ k o →
            ∃ b ∈ q.alarms, b.kind = k ∧ b.object = o)) ∧
      ∀ a ∈ matched, (a.kind.isLevel = false ∨ (s.part.route a.kind).masked = true ∨
          (a.cond = some false ∧ s.part.condition a.kind a.object = false)) → q.alarm? a.kind a.object = none

/-- RESTART clears the work in progress and keeps the facts. In RUN from any link RESTART is answered DONE: the time
base, the settings and locks, the rooms' temperatures and accounts, the doors' physical fields and openings and the
pallets stay; no move, truck, direction run, lane, reservation, door queue, live move or settled pair is left; a
waiting door is SEALED and every other door keeps its state; a coil in RECOVER or OFF, and one in COOLING that no
co-start reaches (it is no FOLLOW coil, or no LEAD coil of its room is in DUE or ARMED), keeps its record but for its
staged fields, one in DEFROST or DRIP is in RECOVER with last stop RESTART and no slot, one in DUE or ARMED waits anew
and may be armed again, until no eligible coil is left waiting beside a free slot; every change flag of every link is
set. Each alarm then listed is one of an unmasked level kind whose condition is true, with repeat count 1 and the
present stamp, and every such kind and object has one unless the list is full. Each link's notices are RESTARTED; then
on the plant link DEFROST STOP and COOL RESUME of each coil in DEFROST or DRIP, in number order, and DEFROST START of
coils now in DEFROST, and on the dock link CLOSE ORDERs of reason DEFROST at open doors, the ones that have then sent
one; then ALARM notices of alarms now listed, one of each on its route's acknowledging link and copy links: none that
waited before is left. A resync flag is set only where the queue is full. Lanes being empty, no door owes an order. -/
def Obligations.RestartKeepsTheFacts : Prop :=
  ∀ (s : State) (l : Link) (ft : Byte), s.part.running = true → s.part.hasPlace l →
    ∃ q : Part, exec (.restart l ft) s = .next (s.answered q l 0x2A#8 ft .done []) ∧
      q.facts = s.part.facts ∧ q.store = s.part.store ∧ q.moves = [] ∧ q.trucks = 0 ∧
      q.dirRun = { dir := none, len := 0 } ∧ q.settled = [] ∧
      (∀ x ∈ q.pallets, x.live = false) ∧
      (∀ r, (q.room r).queue = [] ∧ (q.room r).reservations = 0 ∧
        (q.room r).openDoors = (s.part.room r).openDoors ∧ (q.room r).granted = (s.part.room r).granted) ∧
      (∀ d, (q.door d).lane = none ∧
        (q.door d).state = (if (s.part.door d).state = .waiting then .sealed else (s.part.door d).state) ∧
        (q.door d).cause = (s.part.door d).cause ∧ (q.door d).openStart = (s.part.door d).openStart ∧
        (q.door d).captured = (s.part.door d).captured ∧ (q.door d).openLong = (s.part.door d).openLong ∧
        (q.door d).owed = none ∧
        ((q.door d).sent = true ↔ .closeOrder d .defrost ∈ (q.link .dock).notices)) ∧
      (∀ c, ((s.part.coil c).phase = .recover ∨ (s.part.coil c).phase = .off ∨
          (s.part.coil c).phase = .cooling ∧ ((s.part.coilSet c).role ≠ .follow ∨
            ∀ e, (s.part.coilSet e).role = .lead → s.part.coilRoom e = s.part.coilRoom c →
              (s.part.coil e).phase ≠ .due ∧ (s.part.coil e).phase ≠ .armed)) →
        q.coil c = { s.part.coil c with stagedInterval := none, stagedMax := none }) ∧
      (∀ c, ((s.part.coil c).phase = .defrost ∨ (s.part.coil c).phase = .drip) →
        q.coil c = { s.part.coil c with phase := .recover, phaseMinutes := 0, lastStop := some .restart, slot := false,
                                        stagedInterval := none, stagedMax := none }) ∧
      (∀ c, ((s.part.coil c).phase = .due ∨ (s.part.coil c).phase = .armed) →
        ((q.coil c).phase = .due ∨ (q.coil c).phase = .armed ∨ (q.coil c).phase = .defrost) ∧
        (q.coil c).waitMinutes = 0 ∧ (q.coil c).dueStamp = some s.part.now) ∧
      (∀ k, q.change k =
        { doors := BitVec.allOnes 16, rooms := BitVec.allOnes 8, coils := BitVec.allOnes 12 }) ∧
      q.NoCoilLeft ∧ q.alarms.length ≤ 64 ∧
      (∀ a ∈ q.alarms, ∀ k, k = (s.part.route a.kind).ack ∨
          (s.part.route a.kind).copies.getLsbD (linkIndex k).val = true →
        q.Told k (.alarm a.kind (s.part.route a.kind).code a.object 1 (some true)
          (decide (k ≠ (s.part.route a.kind).ack)) s.part.time.day s.part.time.second)) ∧
      (∀ a ∈ q.alarms, a.kind.isLevel = true ∧ (s.part.route a.kind).masked = false ∧
        q.condition a.kind a.object = true ∧ a.stamp = s.part.now ∧ a.repeats = 1 ∧ a.cond = some true) ∧
      (q.alarms.length < 64 → ∀ k o, k.isLevel = true → (s.part.route k).masked = false → q.condition k o = true →
        ∃ a ∈ q.alarms, a.kind = k ∧ a.object = o) ∧
      ∀ k, ((q.link k).resync = true → (q.link k).notices.length = 32) ∧
        ∃ orders alarms : List Notice,
          (q.link k).notices = .restarted l s.part.time.day s.part.time.second ::
            (if k = .plant then (allCoils.filter fun c => decide ((s.part.coil c).phase = .defrost ∨
              (s.part.coil c).phase = .drip)).flatMap fun c => [.defrostStop c .restart, .coolResume c] else []) ++
            orders ++ alarms ∧
          (∀ n ∈ orders,
            (k = .plant ∧ ∃ c, n = .defrostStart c (s.part.coilRoom c) (s.part.coilSet c).defrostMax ∧
              (q.coil c).phase = .defrost) ∨
            (k = .dock ∧ ∃ d, n = .closeOrder d .defrost ∧
              ((q.door d).state = .opened ∨ (q.door d).state = .breach))) ∧
          ∀ n ∈ alarms, ∃ a ∈ q.alarms, n = .alarm a.kind (s.part.route a.kind).code a.object 1 (some true)
            (decide (k ≠ (s.part.route a.kind).ack)) s.part.time.day s.part.time.second

/-- COMMISSION enters RUN when its checks pass. From any link: in RUN it is answered REFUSED_MODE; in SETUP without a
transit room it is answered INCOMPLETE with check 1, with a coil without a room INCOMPLETE with check 2, with a door
not in SERVICE without an inner room INCOMPLETE with check 3, with two LEAD coils in one room INCOMPLETE with check 4,
and with a FOLLOW coil in a room without a LEAD coil INCOMPLETE with check 5, each where the checks before it pass,
and nothing changes; where the transit room is set, every coil has a room, every door not in SERVICE an inner room, no
room two LEAD coils, and every FOLLOW coil a LEAD coil in its room, it is answered DONE and every block is in its
starting state, with the settings, the locks, the time base, the receive sides and the answer queues as they stood. -/
def Obligations.CommissionEntersRun : Prop :=
  ∀ (s : State) (l : Link) (ft : Byte), s.part.hasPlace l →
    (s.part.running = true → exec (.commission l ft) s = .next (s.answered s.part l 0x2B#8 ft .refusedMode [])) ∧
    (s.part.running = false → s.part.store.floor.transitRoom = none →
      exec (.commission l ft) s = .next (s.answered s.part l 0x2B#8 ft .incomplete [1#8])) ∧
    (s.part.running = false → s.part.store.floor.transitRoom ≠ none → (∃ c, s.part.coilRoom c = none) →
      exec (.commission l ft) s = .next (s.answered s.part l 0x2B#8 ft .incomplete [2#8])) ∧
    (s.part.running = false → s.part.store.floor.transitRoom ≠ none → (∀ c, s.part.coilRoom c ≠ none) →
      (∃ d, (s.part.door d).state ≠ .service ∧ s.part.inner d = none) →
      exec (.commission l ft) s = .next (s.answered s.part l 0x2B#8 ft .incomplete [3#8])) ∧
    (s.part.running = false → s.part.store.floor.transitRoom ≠ none → (∀ c, s.part.coilRoom c ≠ none) →
      (∀ d, (s.part.door d).state = .service ∨ s.part.inner d ≠ none) →
      (∃ c e, (s.part.coilSet c).role = .lead ∧ (s.part.coilSet e).role = .lead ∧
        s.part.coilRoom c = s.part.coilRoom e ∧ c ≠ e) →
      exec (.commission l ft) s = .next (s.answered s.part l 0x2B#8 ft .incomplete [4#8])) ∧
    (s.part.running = false → s.part.store.floor.transitRoom ≠ none → (∀ c, s.part.coilRoom c ≠ none) →
      (∀ d, (s.part.door d).state = .service ∨ s.part.inner d ≠ none) →
      (∀ c e, (s.part.coilSet c).role = .lead → (s.part.coilSet e).role = .lead →
        s.part.coilRoom c = s.part.coilRoom e → c = e) →
      (∃ c, (s.part.coilSet c).role = .follow ∧
        ∀ e, (s.part.coilSet e).role = .lead → s.part.coilRoom e ≠ s.part.coilRoom c) →
      exec (.commission l ft) s = .next (s.answered s.part l 0x2B#8 ft .incomplete [5#8])) ∧
    (s.part.running = false → s.part.store.floor.transitRoom ≠ none → (∀ c, s.part.coilRoom c ≠ none) →
      (∀ d, (s.part.door d).state = .service ∨ s.part.inner d ≠ none) →
      (∀ c e, (s.part.coilSet c).role = .lead → (s.part.coilSet e).role = .lead →
        s.part.coilRoom c = s.part.coilRoom e → c = e) →
      (∀ c, (s.part.coilSet c).role = .follow →
        ∃ e, (s.part.coilSet e).role = .lead ∧ s.part.coilRoom e = s.part.coilRoom c) →
      ∃ q : Part, exec (.commission l ft) s = .next (s.answered q l 0x2B#8 ft .done []) ∧ q.running = true ∧
        q.store = { s.part.store with mode := .run } ∧ q.time = s.part.time ∧ q.rooms = Vector.replicate 8 {} ∧
        q.doors = Vector.replicate 16 {} ∧ q.coils = Vector.replicate 12 {} ∧ q.due = [] ∧ q.pallets = [] ∧
        q.moves = [] ∧ q.trucks = 0 ∧ q.dirRun = { dir := none, len := 0 } ∧ q.alarms = [] ∧ q.settled = [] ∧
        q.changes = Vector.replicate 3 {} ∧
        ∀ k, q.link k = { s.part.link k with notices := [], resync := false })

/-- What the events of a line do to the link's receive side and send side, and how a notice is queued on a link.
FRAME_DISCARD, FRAME_GAP and CHARACTER_ERROR leave the side hunting and change nothing else. FRAME_SENT begins the
oldest answer, or the oldest notice where no answer waits, or leaves the line free. CHARACTER_RECEIVED: a start byte
begins a frame and any other hunting character is skipped; a length of 3..250 goes on and any other hunts again; a
byte short of the frame's end is kept; the last byte ends the frame, which is taken where it is a request and
discarded otherwise. A notice joins the tail of a notice queue of fewer than 32; at a queue of 32 it is dropped, and
the one thing that changes is the link's resync flag, which is set; so it is with the notice of a CLOSE ORDER. Three
of these events as commands are the model's reading (FRAME_DISCARD, FRAME_GAP and CHARACTER_ERROR, log entry 16); the
model's choice are a FRAME_SENT on a line that sends nothing (log entry 27), a request command as the taking that the
last character makes (log entry 15), and a CLOSE_ORDER taken by itself (log entry 3). -/
def Obligations.LineEventsAndCharacters : Prop :=
  (∀ (k : LinkState) (n : Notice),
    (k.notices.length < 32 → k.queue n = { k with notices := k.notices ++ [n] }) ∧
    (32 ≤ k.notices.length → k.queue n = { k with resync := true })) ∧
  (∀ (p : Part) (l k : Link) (n : Notice),
    ((p.notify l n).link k = if k = l then (p.link k).queue n else p.link k) ∧ (p.notify l n).facts = p.facts) ∧
  (∀ (s : State) (d : DoorId) (reason : CloseReason), s.part.running = true →
    (s.part.door d).owed = some reason → (s.part.door d).lane = none →
    ∃ q : Part, exec (.closeOrder d) s = .next (s.after q) ∧
      q.link .dock = (if (s.part.link .dock).notices.length < 32
        then { s.part.link .dock with notices := (s.part.link .dock).notices ++ [.closeOrder d reason] }
        else { s.part.link .dock with resync := true })) ∧
  (∀ (s : State) (l : Link),
    exec (.frameDiscard l) s = .next { s with part := s.part.updLink l fun k => { k with rx := .hunting } } ∧
    exec (.frameGap l) s = .next { s with part := s.part.updLink l fun k => { k with rx := .hunting } } ∧
    exec (.characterError l) s = .next { s with part := s.part.updLink l fun k => { k with rx := .hunting } } ∧
    exec (.frameSent l) s = .next { s with part := s.part.updLink l fun k =>
      match k.answers, k.notices with
      | a :: rest, _ => { k with sending := some a.frame, answers := rest }
      | [], n :: rest => { k with sending := some n.frame, notices := rest }
      | [], [] => { k with sending := none } }) ∧
  ∀ (s : State) (l : Link) (b : Byte),
    let onRx : Rx → State := fun rx => { s with part := s.part.updLink l fun k => { k with rx := rx } }
    ((s.part.link l).rx = .hunting → exec (.characterReceived l b) s =
      .next (onRx (if b = 0xC3#8 then .assembling [] else .hunting))) ∧
    ((s.part.link l).rx = .assembling [] → exec (.characterReceived l b) s =
      .next (onRx (if 3 ≤ b.toNat ∧ b.toNat ≤ 250 then .assembling [b] else .hunting))) ∧
    ∀ (n : Byte) (rest : List Byte), (s.part.link l).rx = .assembling (n :: rest) →
      (rest.length + 2 < n.toNat + 3 → exec (.characterReceived l b) s =
        .next (onRx (.assembling (n :: rest ++ [b])))) ∧
      (n.toNat + 3 ≤ rest.length + 2 → frameRequest l (n :: rest ++ [b]) = none →
        exec (.characterReceived l b) s = .next (onRx .hunting)) ∧
      ∀ i, n.toNat + 3 ≤ rest.length + 2 → frameRequest l (n :: rest ++ [b]) = some i →
        exec (.characterReceived l b) s = exec i (onRx .hunting)

/-- A request is answered once, a refusal changes nothing, and the mode and the link that may send it are checked
first. For every well-formed request but READ STATUS: on a link with a place for its answer, one answer with its
message kind and frame tag joins the link's answer queue, with the flags of the part at the end of the taking; the
answers waiting before it, the receive sides and the lines stay; and where the code is not DONE the answer is all that
happens. On a link with 8 answers waiting, any request is discarded and nothing changes. The permissions of R166 and
R167 hold for every request with a place for its answer: in SETUP every runtime request, ACKNOWLEDGE and RESTART is
answered REFUSED_MODE from every link; in RUN so are COMMISSION, SET CLASS, a SET COIL with the room or the group
role, a SET PLANT with the slot limit and a SET FLOOR with the transit or quarantine room; in RUN a request of the
plant, dock or floor controller from another link is answered REFUSED_LINK, a SET ROOM from a link that may not set
all it carries, and a SET ROUTE from a link that is not the route's acknowledging link. A request from a link that may
send it in the present mode is answered neither. -/
def Obligations.EveryRequestIsAnsweredOnce : Prop :=
  ∀ (i : Instr) (s : State) (l : Link) (msg ft : Byte) (body : List Byte), i.wellFormed = true →
    i.onWire = some (l, msg, ft, body) →
    (¬s.part.hasPlace l → exec i s = .next s) ∧
    (s.part.hasPlace l → msg ≠ 0x25#8 → ∃ (q : Part) (code : AnswerCode) (result : List Byte),
      exec i s = .next (s.answered q l msg ft code result) ∧ (code ≠ .done → q = s.part) ∧
      (∀ k, (q.link k).answers = (s.part.link k).answers ∧ (q.link k).rx = (s.part.link k).rx ∧
        (q.link k).sending = (s.part.link k).sending) ∧
      ((s.part.running = true ∧ runtimeLink msg = some l) ∨
        (s.part.running = true ∧ (l = .dock ∧ (msg = 0x16#8 ∨ msg = 0x17#8) ∨ l = .floor ∧ msg = 0x1B#8)) ∨
        (s.part.running = true ∧ ∃ items : List Item,
          (∃ b, i = .setRoom l ft b items ∧ ∀ x ∈ items, (x.num = 10#8 → l = .dock) ∧ (x.num = 11#8 → l = .floor) ∧
            (1 ≤ x.num.toNat → x.num.toNat ≤ 9 ∨ x.num = 12#8 → l = .plant)) ∨
          (l = .plant ∧ ∃ b, i = .setCoil l ft b items ∧ ∀ x ∈ items, x.num ≠ 1#8 ∧ x.num ≠ 2#8) ∨
          (l = .plant ∧ i = .setPlant l ft items ∧ ∀ x ∈ items, x.num ≠ 1#8) ∨
          (l = .floor ∧ i = .setFloor l ft items ∧ ∀ x ∈ items, x.num ≠ 1#8 ∧ x.num ≠ 2#8) ∨
          (∃ b k, i = .setRoute l ft b items ∧ kind? b = some k ∧ l = (s.part.route k).ack)) ∨
        (s.part.running = false ∧ ((0x15 ≤ msg.toNat ∧ msg.toNat ≤ 0x1D) ∨ msg = 0x2B#8)) ∨
        (s.part.running = true ∧ (msg = 0x28#8 ∨ msg = 0x2A#8)) ∨
        (0x1E ≤ msg.toNat ∧ msg.toNat ≤ 0x27) ∨ msg = 0x29#8 →
        code ≠ .refusedMode ∧ code ≠ .refusedLink)) ∧
    (s.part.hasPlace l →
      let modeRefused := exec i s = .next (s.answered s.part l msg ft .refusedMode [])
      let linkRefused := exec i s = .next (s.answered s.part l msg ft .refusedLink [])
      (s.part.running = false → (runtimeLink msg).isSome = true ∨ msg = 0x28#8 ∨ msg = 0x2A#8 → modeRefused) ∧
      (s.part.running = true → msg = 0x1C#8 ∨ msg = 0x2B#8 → modeRefused) ∧
      (∀ k, s.part.running = true → runtimeLink msg = some k → l ≠ k → linkRefused) ∧
      (s.part.running = true → msg = 0x16#8 ∨ msg = 0x17#8 → l ≠ .dock → linkRefused) ∧
      (s.part.running = true → msg = 0x1B#8 → l ≠ .floor → linkRefused) ∧
      (∀ (b : Byte) (items : List Item), i = .setCoil l ft b items → s.part.running = true →
        ((∃ x ∈ items, x.num = 1#8 ∨ x.num = 2#8) → modeRefused) ∧
        ((∀ x ∈ items, x.num ≠ 1#8 ∧ x.num ≠ 2#8) → l ≠ .plant → linkRefused)) ∧
      (∀ items : List Item, i = .setPlant l ft items → s.part.running = true →
        ((∃ x ∈ items, x.num = 1#8) → modeRefused) ∧
        ((∀ x ∈ items, x.num ≠ 1#8) → l ≠ .plant → linkRefused)) ∧
      (∀ items : List Item, i = .setFloor l ft items → s.part.running = true →
        ((∃ x ∈ items, x.num = 1#8 ∨ x.num = 2#8) → modeRefused) ∧
        ((∀ x ∈ items, x.num ≠ 1#8 ∧ x.num ≠ 2#8) → l ≠ .floor → linkRefused)) ∧
      (∀ (b : Byte) (items : List Item), i = .setRoom l ft b items → s.part.running = true →
        (∃ x ∈ items, (x.num = 10#8 ∧ l ≠ .dock) ∨ (x.num = 11#8 ∧ l ≠ .floor) ∨
          (1 ≤ x.num.toNat ∧ (x.num.toNat ≤ 9 ∨ x.num = 12#8) ∧ l ≠ .plant)) → linkRefused) ∧
      ∀ (b : Byte) (items : List Item), i = .setRoute l ft b items → s.part.running = true →
        (∀ k, kind? b = some k → l ≠ (s.part.route k).ack) → linkRefused)

/-- Only a pin reset leaves RUN or clears a lock, a locked group keeps its settings, and every change is marked in all
three change sets. For every command but PIN_RESET and every state: a part in RUN stays in RUN, a lock that is set
stays set, and the settings of a locked group stay, but for a coil's cooling interval and defrost max, which a staged
value may still replace. In RUN, a door whose state, a room whose stale flag, declared state or defrost hold, or a
coil whose phase is another after the command has its flag set in the change sets of all three links; and a flag that
is set stays set, but at the link's own READ CHANGES or a character that may complete one. -/
def Obligations.ModeAndLocksAreKept : Prop :=
  ∀ (c : Instr) (s t : State), exec c s = .next t → c ≠ .pinReset →
    (s.part.running = true → t.part.running = true) ∧
    (∀ g, s.part.locked g = true → t.part.locked g = true) ∧
    (s.part.locked .room = true → t.part.store.rooms = s.part.store.rooms) ∧
    (s.part.locked .door = true → t.part.store.doors = s.part.store.doors) ∧
    (s.part.locked .coil = true →
      t.part.store.coils.map CoilSettings.facts = s.part.store.coils.map CoilSettings.facts) ∧
    (s.part.locked .plant = true → t.part.store.plant = s.part.store.plant) ∧
    (s.part.locked .floor = true → t.part.store.floor = s.part.store.floor) ∧
    (s.part.locked .cls = true → t.part.store.classes = s.part.store.classes) ∧
    (s.part.locked .route = true → t.part.store.routes = s.part.store.routes) ∧
    (s.part.running = true → ∀ l,
      (∀ d, (t.part.door d).state ≠ (s.part.door d).state → (t.part.change l).doors.getLsbD d.val = true) ∧
      (∀ r, ((t.part.room r).stale ≠ (s.part.room r).stale ∨ (t.part.room r).declared ≠ (s.part.room r).declared ∨
          (t.part.room r).hold ≠ (s.part.room r).hold) → (t.part.change l).rooms.getLsbD r.val = true) ∧
      (∀ e, (t.part.coil e).phase ≠ (s.part.coil e).phase → (t.part.change l).coils.getLsbD e.val = true) ∧
      ((∀ ft, c ≠ .readChanges l ft) → (∀ b, c ≠ .characterReceived l b) →
        (∀ d : DoorId, (s.part.change l).doors.getLsbD d.val = true →
          (t.part.change l).doors.getLsbD d.val = true) ∧
        (∀ r : RoomId, (s.part.change l).rooms.getLsbD r.val = true →
          (t.part.change l).rooms.getLsbD r.val = true) ∧
        ∀ e : CoilId, (s.part.change l).coils.getLsbD e.val = true →
          (t.part.change l).coils.getLsbD e.val = true))

/-- The reset state meets every invariant. The clock, the filters, the accounts, the queues, the alarm list and the
tables of the reset state are in their ranges; its DUE queue, its holds, its door queues and its moves match the
tables; its counts count what they stand for, its lanes and reservations are those of its moves, and no room is over
its capacity. -/
def Obligations.ResetMeetsTheInvariants : Prop :=
  State.reset.part.ClockInRange ∧ State.reset.part.FiltersInRange ∧ State.reset.part.AccountsInRange ∧
  State.reset.part.QueuesInRange ∧ State.reset.part.AlarmsInRange ∧ State.reset.part.TablesInRange ∧
  State.reset.part.DueQueueMatches ∧ State.reset.part.HoldsFollow ∧ State.reset.part.OpenDoorsCount ∧
  State.reset.part.DoorQueuesMatch ∧ State.reset.part.MovesMatch ∧
  State.reset.part.OccupancyCounts ∧ State.reset.part.TrucksCount ∧ State.reset.part.GrantsWithinLimits ∧
  State.reset.part.HoldingsMatch ∧ State.reset.part.CapacityKept

/-- Every step keeps the clock, the filters and the exposure accounts in their ranges. From every state, whatever the
command at the front of the queue, the step keeps each of these: run seconds, day and second in their ranges; every
filter weight 1..16, every F16 within -8000..+8000 and every F the reported temperature of its F16; and, where the
pallet table holds no two records of one tag and the tables stand within their places (which every step keeps:
EveryStepKeepsTheListsInRange), every account at most 9,999,999 and every breached pallet at or above its budget. -/
def Obligations.EveryStepKeepsClockFiltersAndAccounts : Prop :=
  ∀ s t : State, step s = .next t →
    (s.part.ClockInRange → t.part.ClockInRange) ∧ (s.part.FiltersInRange → t.part.FiltersInRange) ∧
    (s.part.TablesInRange → s.part.AccountsInRange → t.part.AccountsInRange)

/-- Every step keeps the queues, the alarm list and the tables within their places. From every state the step keeps
each of these: at most 32 notices and 8 answers on a link; at most 64 alarms, at most one of a kind and object, with
repeat counts 1..255; at most 256 pallets with distinct tags and at most 48 moves. -/
def Obligations.EveryStepKeepsTheListsInRange : Prop :=
  ∀ s t : State, step s = .next t →
    (s.part.QueuesInRange → t.part.QueuesInRange) ∧ (s.part.AlarmsInRange → t.part.AlarmsInRange) ∧
    (s.part.TablesInRange → t.part.TablesInRange)

/-- Every step keeps the DUE queue and the coil table together. From every state in which the DUE queue holds every
coil in DUE, each once, and no other coil, the step leaves such a state. -/
def Obligations.EveryStepKeepsTheDueQueueMatching : Prop :=
  ∀ s t : State, step s = .next t → s.part.DueQueueMatches → t.part.DueQueueMatches

/-- Every step keeps the defrost holds with the coil table. From every state in which a room's hold is set exactly
while a coil of it is in ARMED, DEFROST or DRIP, and every coil of SETUP is in COOLING, the step leaves such a state.
-/
def Obligations.EveryStepKeepsTheDefrostHolds : Prop :=
  ∀ s t : State, step s = .next t → s.part.HoldsFollow → t.part.HoldsFollow

/-- Every step keeps the open-door and granted counts. From every state in which the door queues match the doors and
every room's open-door count is the number of its doors in OPEN or BREACH, its granted count the number of those whose
opening began with a grant, the step leaves such counts. -/
def Obligations.EveryStepKeepsTheOpenDoorCounts : Prop :=
  ∀ s t : State, step s = .next t → s.part.DoorQueuesMatch → s.part.OpenDoorsCount → t.part.OpenDoorsCount

/-- Every step keeps the door queues and the doors together. From every state in which every room's queue holds the
waiting doors of the room, each once, and no other door, the step leaves such a state. -/
def Obligations.EveryStepKeepsTheDoorQueuesMatching : Prop :=
  ∀ s t : State, step s = .next t → s.part.DoorQueuesMatch → t.part.DoorQueuesMatch

/-- Every step keeps moves, pallets, occupancy, reservations, lanes and the truck count together. From every state in
which moves and pallets match, the step leaves such a state; with it, every room's occupancy stays the number of
pallets in it, and the truck count stays the number of moves RELEASED or PICKED and within the truck limit. With it
too, every move goes on holding what its state gives it, every room's reservations stay the number of RELEASED or
PICKED moves bound for it, and every door's lane goes on holding the tag of the one move that lists the door, and
nothing where none does; and with that, occupancy and reservations of every room stay within its capacity. -/
def Obligations.EveryStepKeepsMovesPalletsAndCounts : Prop :=
  ∀ s t : State, step s = .next t → s.part.MovesMatch →
    t.part.MovesMatch ∧ (s.part.OccupancyCounts → t.part.OccupancyCounts) ∧
    (s.part.TrucksCount → t.part.TrucksCount) ∧ (s.part.HoldingsMatch → t.part.HoldingsMatch) ∧
    (s.part.HoldingsMatch → s.part.CapacityKept → t.part.CapacityKept)

/-- Every step keeps the slots and the door grants within their limits. From every state in which no more slots are
held than the slot limit gives and none in SETUP, and no room has granted more doors than its budget gives, the step
leaves such a state. -/
def Obligations.EveryStepKeepsGrantsWithinLimits : Prop :=
  ∀ s t : State, step s = .next t → s.part.GrantsWithinLimits → t.part.GrantsWithinLimits

/-- Every well-formed request is read back from its frame. For every well-formed request, its body is at most 247
bytes long, its message kind, frame tag and body are read as the request itself, and so is its whole frame with its
CRC. -/
def Obligations.RequestBodiesRoundTrip : Prop :=
  ∀ (i : Instr) (l : Link) (msg ft : Byte) (body : List Byte), i.wellFormed = true →
    i.onWire = some (l, msg, ft, body) →
    body.length ≤ 247 ∧ parseRequest l msg ft body = some i ∧
    frameRequest l ((frameBytes kindRequest msg ft body).drop 1) = some i

/-- A request's frame, received character by character, is the taking of the request. On a link that hunts, receiving
the characters of a well-formed request's frame one after another leaves the state that the request's own command
leaves. That a request command stands for the taking of its frame, without the characters, is the model's choice (log
entry 15). -/
def Obligations.FrameReceptionTakesTheRequest : Prop :=
  ∀ (i : Instr) (s : State) (l : Link) (msg ft : Byte) (body : List Byte), i.wellFormed = true →
    i.onWire = some (l, msg, ft, body) → (s.part.link l).rx = .hunting →
    s.receiving l (frameBytes kindRequest msg ft body) = s.taking i
end

