-- ==== Sys2Proof/Laws/State.lean ====
section
/-! SUPPORT. The small lemmas of the state: for each update of the part, what each field reads after it, and what a
record reads after it was updated itself or another one was. -/

namespace Sys2Proof.Machine

/-! ### updRoom -/

@[simp] theorem Part.updRoom_time (p : Part) (r : RoomId) (f : Room → Room) : (p.updRoom r f).time = p.time := rfl
@[simp] theorem Part.updRoom_store (p : Part) (r : RoomId) (f : Room → Room) : (p.updRoom r f).store = p.store := rfl
@[simp] theorem Part.updRoom_doors (p : Part) (r : RoomId) (f : Room → Room) : (p.updRoom r f).doors = p.doors := rfl
@[simp] theorem Part.updRoom_coils (p : Part) (r : RoomId) (f : Room → Room) : (p.updRoom r f).coils = p.coils := rfl
@[simp] theorem Part.updRoom_due (p : Part) (r : RoomId) (f : Room → Room) : (p.updRoom r f).due = p.due := rfl
@[simp] theorem Part.updRoom_pallets (p : Part) (r : RoomId) (f : Room → Room) : (p.updRoom r f).pallets = p.pallets := rfl
@[simp] theorem Part.updRoom_moves (p : Part) (r : RoomId) (f : Room → Room) : (p.updRoom r f).moves = p.moves := rfl
@[simp] theorem Part.updRoom_trucks (p : Part) (r : RoomId) (f : Room → Room) : (p.updRoom r f).trucks = p.trucks := rfl
@[simp] theorem Part.updRoom_dirRun (p : Part) (r : RoomId) (f : Room → Room) : (p.updRoom r f).dirRun = p.dirRun := rfl
@[simp] theorem Part.updRoom_alarms (p : Part) (r : RoomId) (f : Room → Room) : (p.updRoom r f).alarms = p.alarms := rfl
@[simp] theorem Part.updRoom_settled (p : Part) (r : RoomId) (f : Room → Room) : (p.updRoom r f).settled = p.settled := rfl
@[simp] theorem Part.updRoom_changes (p : Part) (r : RoomId) (f : Room → Room) : (p.updRoom r f).changes = p.changes := rfl
@[simp] theorem Part.updRoom_links (p : Part) (r : RoomId) (f : Room → Room) : (p.updRoom r f).links = p.links := rfl

/-! ### updDoor -/

@[simp] theorem Part.updDoor_time (p : Part) (d : DoorId) (f : Door → Door) : (p.updDoor d f).time = p.time := rfl
@[simp] theorem Part.updDoor_store (p : Part) (d : DoorId) (f : Door → Door) : (p.updDoor d f).store = p.store := rfl
@[simp] theorem Part.updDoor_rooms (p : Part) (d : DoorId) (f : Door → Door) : (p.updDoor d f).rooms = p.rooms := rfl
@[simp] theorem Part.updDoor_coils (p : Part) (d : DoorId) (f : Door → Door) : (p.updDoor d f).coils = p.coils := rfl
@[simp] theorem Part.updDoor_due (p : Part) (d : DoorId) (f : Door → Door) : (p.updDoor d f).due = p.due := rfl
@[simp] theorem Part.updDoor_pallets (p : Part) (d : DoorId) (f : Door → Door) : (p.updDoor d f).pallets = p.pallets := rfl
@[simp] theorem Part.updDoor_moves (p : Part) (d : DoorId) (f : Door → Door) : (p.updDoor d f).moves = p.moves := rfl
@[simp] theorem Part.updDoor_trucks (p : Part) (d : DoorId) (f : Door → Door) : (p.updDoor d f).trucks = p.trucks := rfl
@[simp] theorem Part.updDoor_dirRun (p : Part) (d : DoorId) (f : Door → Door) : (p.updDoor d f).dirRun = p.dirRun := rfl
@[simp] theorem Part.updDoor_alarms (p : Part) (d : DoorId) (f : Door → Door) : (p.updDoor d f).alarms = p.alarms := rfl
@[simp] theorem Part.updDoor_settled (p : Part) (d : DoorId) (f : Door → Door) : (p.updDoor d f).settled = p.settled := rfl
@[simp] theorem Part.updDoor_changes (p : Part) (d : DoorId) (f : Door → Door) : (p.updDoor d f).changes = p.changes := rfl
@[simp] theorem Part.updDoor_links (p : Part) (d : DoorId) (f : Door → Door) : (p.updDoor d f).links = p.links := rfl

/-! ### updCoil -/

@[simp] theorem Part.updCoil_time (p : Part) (c : CoilId) (f : Coil → Coil) : (p.updCoil c f).time = p.time := rfl
@[simp] theorem Part.updCoil_store (p : Part) (c : CoilId) (f : Coil → Coil) : (p.updCoil c f).store = p.store := rfl
@[simp] theorem Part.updCoil_rooms (p : Part) (c : CoilId) (f : Coil → Coil) : (p.updCoil c f).rooms = p.rooms := rfl
@[simp] theorem Part.updCoil_doors (p : Part) (c : CoilId) (f : Coil → Coil) : (p.updCoil c f).doors = p.doors := rfl
@[simp] theorem Part.updCoil_due (p : Part) (c : CoilId) (f : Coil → Coil) : (p.updCoil c f).due = p.due := rfl
@[simp] theorem Part.updCoil_pallets (p : Part) (c : CoilId) (f : Coil → Coil) : (p.updCoil c f).pallets = p.pallets := rfl
@[simp] theorem Part.updCoil_moves (p : Part) (c : CoilId) (f : Coil → Coil) : (p.updCoil c f).moves = p.moves := rfl
@[simp] theorem Part.updCoil_trucks (p : Part) (c : CoilId) (f : Coil → Coil) : (p.updCoil c f).trucks = p.trucks := rfl
@[simp] theorem Part.updCoil_dirRun (p : Part) (c : CoilId) (f : Coil → Coil) : (p.updCoil c f).dirRun = p.dirRun := rfl
@[simp] theorem Part.updCoil_alarms (p : Part) (c : CoilId) (f : Coil → Coil) : (p.updCoil c f).alarms = p.alarms := rfl
@[simp] theorem Part.updCoil_settled (p : Part) (c : CoilId) (f : Coil → Coil) : (p.updCoil c f).settled = p.settled := rfl
@[simp] theorem Part.updCoil_changes (p : Part) (c : CoilId) (f : Coil → Coil) : (p.updCoil c f).changes = p.changes := rfl
@[simp] theorem Part.updCoil_links (p : Part) (c : CoilId) (f : Coil → Coil) : (p.updCoil c f).links = p.links := rfl

/-! ### updLink -/

@[simp] theorem Part.updLink_time (p : Part) (l : Link) (f : LinkState → LinkState) : (p.updLink l f).time = p.time := rfl
@[simp] theorem Part.updLink_store (p : Part) (l : Link) (f : LinkState → LinkState) : (p.updLink l f).store = p.store := rfl
@[simp] theorem Part.updLink_rooms (p : Part) (l : Link) (f : LinkState → LinkState) : (p.updLink l f).rooms = p.rooms := rfl
@[simp] theorem Part.updLink_doors (p : Part) (l : Link) (f : LinkState → LinkState) : (p.updLink l f).doors = p.doors := rfl
@[simp] theorem Part.updLink_coils (p : Part) (l : Link) (f : LinkState → LinkState) : (p.updLink l f).coils = p.coils := rfl
@[simp] theorem Part.updLink_due (p : Part) (l : Link) (f : LinkState → LinkState) : (p.updLink l f).due = p.due := rfl
@[simp] theorem Part.updLink_pallets (p : Part) (l : Link) (f : LinkState → LinkState) : (p.updLink l f).pallets = p.pallets := rfl
@[simp] theorem Part.updLink_moves (p : Part) (l : Link) (f : LinkState → LinkState) : (p.updLink l f).moves = p.moves := rfl
@[simp] theorem Part.updLink_trucks (p : Part) (l : Link) (f : LinkState → LinkState) : (p.updLink l f).trucks = p.trucks := rfl
@[simp] theorem Part.updLink_dirRun (p : Part) (l : Link) (f : LinkState → LinkState) : (p.updLink l f).dirRun = p.dirRun := rfl
@[simp] theorem Part.updLink_alarms (p : Part) (l : Link) (f : LinkState → LinkState) : (p.updLink l f).alarms = p.alarms := rfl
@[simp] theorem Part.updLink_settled (p : Part) (l : Link) (f : LinkState → LinkState) : (p.updLink l f).settled = p.settled := rfl
@[simp] theorem Part.updLink_changes (p : Part) (l : Link) (f : LinkState → LinkState) : (p.updLink l f).changes = p.changes := rfl

/-! ### updChange -/

@[simp] theorem Part.updChange_time (p : Part) (l : Link) (f : ChangeSet → ChangeSet) : (p.updChange l f).time = p.time := rfl
@[simp] theorem Part.updChange_store (p : Part) (l : Link) (f : ChangeSet → ChangeSet) : (p.updChange l f).store = p.store := rfl
@[simp] theorem Part.updChange_rooms (p : Part) (l : Link) (f : ChangeSet → ChangeSet) : (p.updChange l f).rooms = p.rooms := rfl
@[simp] theorem Part.updChange_doors (p : Part) (l : Link) (f : ChangeSet → ChangeSet) : (p.updChange l f).doors = p.doors := rfl
@[simp] theorem Part.updChange_coils (p : Part) (l : Link) (f : ChangeSet → ChangeSet) : (p.updChange l f).coils = p.coils := rfl
@[simp] theorem Part.updChange_due (p : Part) (l : Link) (f : ChangeSet → ChangeSet) : (p.updChange l f).due = p.due := rfl
@[simp] theorem Part.updChange_pallets (p : Part) (l : Link) (f : ChangeSet → ChangeSet) : (p.updChange l f).pallets = p.pallets := rfl
@[simp] theorem Part.updChange_moves (p : Part) (l : Link) (f : ChangeSet → ChangeSet) : (p.updChange l f).moves = p.moves := rfl
@[simp] theorem Part.updChange_trucks (p : Part) (l : Link) (f : ChangeSet → ChangeSet) : (p.updChange l f).trucks = p.trucks := rfl
@[simp] theorem Part.updChange_dirRun (p : Part) (l : Link) (f : ChangeSet → ChangeSet) : (p.updChange l f).dirRun = p.dirRun := rfl
@[simp] theorem Part.updChange_alarms (p : Part) (l : Link) (f : ChangeSet → ChangeSet) : (p.updChange l f).alarms = p.alarms := rfl
@[simp] theorem Part.updChange_settled (p : Part) (l : Link) (f : ChangeSet → ChangeSet) : (p.updChange l f).settled = p.settled := rfl
@[simp] theorem Part.updChange_links (p : Part) (l : Link) (f : ChangeSet → ChangeSet) : (p.updChange l f).links = p.links := rfl

/-! ### setRoomSet -/

@[simp] theorem Part.setRoomSet_time (p : Part) (r : RoomId) (x : RoomSettings) : (p.setRoomSet r x).time = p.time := rfl
@[simp] theorem Part.setRoomSet_rooms (p : Part) (r : RoomId) (x : RoomSettings) : (p.setRoomSet r x).rooms = p.rooms := rfl
@[simp] theorem Part.setRoomSet_doors (p : Part) (r : RoomId) (x : RoomSettings) : (p.setRoomSet r x).doors = p.doors := rfl
@[simp] theorem Part.setRoomSet_coils (p : Part) (r : RoomId) (x : RoomSettings) : (p.setRoomSet r x).coils = p.coils := rfl
@[simp] theorem Part.setRoomSet_due (p : Part) (r : RoomId) (x : RoomSettings) : (p.setRoomSet r x).due = p.due := rfl
@[simp] theorem Part.setRoomSet_pallets (p : Part) (r : RoomId) (x : RoomSettings) : (p.setRoomSet r x).pallets = p.pallets := rfl
@[simp] theorem Part.setRoomSet_moves (p : Part) (r : RoomId) (x : RoomSettings) : (p.setRoomSet r x).moves = p.moves := rfl
@[simp] theorem Part.setRoomSet_trucks (p : Part) (r : RoomId) (x : RoomSettings) : (p.setRoomSet r x).trucks = p.trucks := rfl
@[simp] theorem Part.setRoomSet_dirRun (p : Part) (r : RoomId) (x : RoomSettings) : (p.setRoomSet r x).dirRun = p.dirRun := rfl
@[simp] theorem Part.setRoomSet_alarms (p : Part) (r : RoomId) (x : RoomSettings) : (p.setRoomSet r x).alarms = p.alarms := rfl
@[simp] theorem Part.setRoomSet_settled (p : Part) (r : RoomId) (x : RoomSettings) : (p.setRoomSet r x).settled = p.settled := rfl
@[simp] theorem Part.setRoomSet_changes (p : Part) (r : RoomId) (x : RoomSettings) : (p.setRoomSet r x).changes = p.changes := rfl
@[simp] theorem Part.setRoomSet_links (p : Part) (r : RoomId) (x : RoomSettings) : (p.setRoomSet r x).links = p.links := rfl

/-! ### setDoorSet -/

@[simp] theorem Part.setDoorSet_time (p : Part) (d : DoorId) (x : DoorSettings) : (p.setDoorSet d x).time = p.time := rfl
@[simp] theorem Part.setDoorSet_rooms (p : Part) (d : DoorId) (x : DoorSettings) : (p.setDoorSet d x).rooms = p.rooms := rfl
@[simp] theorem Part.setDoorSet_doors (p : Part) (d : DoorId) (x : DoorSettings) : (p.setDoorSet d x).doors = p.doors := rfl
@[simp] theorem Part.setDoorSet_coils (p : Part) (d : DoorId) (x : DoorSettings) : (p.setDoorSet d x).coils = p.coils := rfl
@[simp] theorem Part.setDoorSet_due (p : Part) (d : DoorId) (x : DoorSettings) : (p.setDoorSet d x).due = p.due := rfl
@[simp] theorem Part.setDoorSet_pallets (p : Part) (d : DoorId) (x : DoorSettings) : (p.setDoorSet d x).pallets = p.pallets := rfl
@[simp] theorem Part.setDoorSet_moves (p : Part) (d : DoorId) (x : DoorSettings) : (p.setDoorSet d x).moves = p.moves := rfl
@[simp] theorem Part.setDoorSet_trucks (p : Part) (d : DoorId) (x : DoorSettings) : (p.setDoorSet d x).trucks = p.trucks := rfl
@[simp] theorem Part.setDoorSet_dirRun (p : Part) (d : DoorId) (x : DoorSettings) : (p.setDoorSet d x).dirRun = p.dirRun := rfl
@[simp] theorem Part.setDoorSet_alarms (p : Part) (d : DoorId) (x : DoorSettings) : (p.setDoorSet d x).alarms = p.alarms := rfl
@[simp] theorem Part.setDoorSet_settled (p : Part) (d : DoorId) (x : DoorSettings) : (p.setDoorSet d x).settled = p.settled := rfl
@[simp] theorem Part.setDoorSet_changes (p : Part) (d : DoorId) (x : DoorSettings) : (p.setDoorSet d x).changes = p.changes := rfl
@[simp] theorem Part.setDoorSet_links (p : Part) (d : DoorId) (x : DoorSettings) : (p.setDoorSet d x).links = p.links := rfl

/-! ### setCoilSet -/

@[simp] theorem Part.setCoilSet_time (p : Part) (c : CoilId) (x : CoilSettings) : (p.setCoilSet c x).time = p.time := rfl
@[simp] theorem Part.setCoilSet_rooms (p : Part) (c : CoilId) (x : CoilSettings) : (p.setCoilSet c x).rooms = p.rooms := rfl
@[simp] theorem Part.setCoilSet_doors (p : Part) (c : CoilId) (x : CoilSettings) : (p.setCoilSet c x).doors = p.doors := rfl
@[simp] theorem Part.setCoilSet_coils (p : Part) (c : CoilId) (x : CoilSettings) : (p.setCoilSet c x).coils = p.coils := rfl
@[simp] theorem Part.setCoilSet_due (p : Part) (c : CoilId) (x : CoilSettings) : (p.setCoilSet c x).due = p.due := rfl
@[simp] theorem Part.setCoilSet_pallets (p : Part) (c : CoilId) (x : CoilSettings) : (p.setCoilSet c x).pallets = p.pallets := rfl
@[simp] theorem Part.setCoilSet_moves (p : Part) (c : CoilId) (x : CoilSettings) : (p.setCoilSet c x).moves = p.moves := rfl
@[simp] theorem Part.setCoilSet_trucks (p : Part) (c : CoilId) (x : CoilSettings) : (p.setCoilSet c x).trucks = p.trucks := rfl
@[simp] theorem Part.setCoilSet_dirRun (p : Part) (c : CoilId) (x : CoilSettings) : (p.setCoilSet c x).dirRun = p.dirRun := rfl
@[simp] theorem Part.setCoilSet_alarms (p : Part) (c : CoilId) (x : CoilSettings) : (p.setCoilSet c x).alarms = p.alarms := rfl
@[simp] theorem Part.setCoilSet_settled (p : Part) (c : CoilId) (x : CoilSettings) : (p.setCoilSet c x).settled = p.settled := rfl
@[simp] theorem Part.setCoilSet_changes (p : Part) (c : CoilId) (x : CoilSettings) : (p.setCoilSet c x).changes = p.changes := rfl
@[simp] theorem Part.setCoilSet_links (p : Part) (c : CoilId) (x : CoilSettings) : (p.setCoilSet c x).links = p.links := rfl

/-! ### setPlantSet -/

@[simp] theorem Part.setPlantSet_time (p : Part) (x : PlantSettings) : (p.setPlantSet x).time = p.time := rfl
@[simp] theorem Part.setPlantSet_rooms (p : Part) (x : PlantSettings) : (p.setPlantSet x).rooms = p.rooms := rfl
@[simp] theorem Part.setPlantSet_doors (p : Part) (x : PlantSettings) : (p.setPlantSet x).doors = p.doors := rfl
@[simp] theorem Part.setPlantSet_coils (p : Part) (x : PlantSettings) : (p.setPlantSet x).coils = p.coils := rfl
@[simp] theorem Part.setPlantSet_due (p : Part) (x : PlantSettings) : (p.setPlantSet x).due = p.due := rfl
@[simp] theorem Part.setPlantSet_pallets (p : Part) (x : PlantSettings) : (p.setPlantSet x).pallets = p.pallets := rfl
@[simp] theorem Part.setPlantSet_moves (p : Part) (x : PlantSettings) : (p.setPlantSet x).moves = p.moves := rfl
@[simp] theorem Part.setPlantSet_trucks (p : Part) (x : PlantSettings) : (p.setPlantSet x).trucks = p.trucks := rfl
@[simp] theorem Part.setPlantSet_dirRun (p : Part) (x : PlantSettings) : (p.setPlantSet x).dirRun = p.dirRun := rfl
@[simp] theorem Part.setPlantSet_alarms (p : Part) (x : PlantSettings) : (p.setPlantSet x).alarms = p.alarms := rfl
@[simp] theorem Part.setPlantSet_settled (p : Part) (x : PlantSettings) : (p.setPlantSet x).settled = p.settled := rfl
@[simp] theorem Part.setPlantSet_changes (p : Part) (x : PlantSettings) : (p.setPlantSet x).changes = p.changes := rfl
@[simp] theorem Part.setPlantSet_links (p : Part) (x : PlantSettings) : (p.setPlantSet x).links = p.links := rfl

/-! ### setFloorSet -/

@[simp] theorem Part.setFloorSet_time (p : Part) (x : FloorSettings) : (p.setFloorSet x).time = p.time := rfl
@[simp] theorem Part.setFloorSet_rooms (p : Part) (x : FloorSettings) : (p.setFloorSet x).rooms = p.rooms := rfl
@[simp] theorem Part.setFloorSet_doors (p : Part) (x : FloorSettings) : (p.setFloorSet x).doors = p.doors := rfl
@[simp] theorem Part.setFloorSet_coils (p : Part) (x : FloorSettings) : (p.setFloorSet x).coils = p.coils := rfl
@[simp] theorem Part.setFloorSet_due (p : Part) (x : FloorSettings) : (p.setFloorSet x).due = p.due := rfl
@[simp] theorem Part.setFloorSet_pallets (p : Part) (x : FloorSettings) : (p.setFloorSet x).pallets = p.pallets := rfl
@[simp] theorem Part.setFloorSet_moves (p : Part) (x : FloorSettings) : (p.setFloorSet x).moves = p.moves := rfl
@[simp] theorem Part.setFloorSet_trucks (p : Part) (x : FloorSettings) : (p.setFloorSet x).trucks = p.trucks := rfl
@[simp] theorem Part.setFloorSet_dirRun (p : Part) (x : FloorSettings) : (p.setFloorSet x).dirRun = p.dirRun := rfl
@[simp] theorem Part.setFloorSet_alarms (p : Part) (x : FloorSettings) : (p.setFloorSet x).alarms = p.alarms := rfl
@[simp] theorem Part.setFloorSet_settled (p : Part) (x : FloorSettings) : (p.setFloorSet x).settled = p.settled := rfl
@[simp] theorem Part.setFloorSet_changes (p : Part) (x : FloorSettings) : (p.setFloorSet x).changes = p.changes := rfl
@[simp] theorem Part.setFloorSet_links (p : Part) (x : FloorSettings) : (p.setFloorSet x).links = p.links := rfl

/-! ### setClassRow -/

@[simp] theorem Part.setClassRow_time (p : Part) (k : PClass) (x : ClassRow) : (p.setClassRow k x).time = p.time := rfl
@[simp] theorem Part.setClassRow_rooms (p : Part) (k : PClass) (x : ClassRow) : (p.setClassRow k x).rooms = p.rooms := rfl
@[simp] theorem Part.setClassRow_doors (p : Part) (k : PClass) (x : ClassRow) : (p.setClassRow k x).doors = p.doors := rfl
@[simp] theorem Part.setClassRow_coils (p : Part) (k : PClass) (x : ClassRow) : (p.setClassRow k x).coils = p.coils := rfl
@[simp] theorem Part.setClassRow_due (p : Part) (k : PClass) (x : ClassRow) : (p.setClassRow k x).due = p.due := rfl
@[simp] theorem Part.setClassRow_pallets (p : Part) (k : PClass) (x : ClassRow) : (p.setClassRow k x).pallets = p.pallets := rfl
@[simp] theorem Part.setClassRow_moves (p : Part) (k : PClass) (x : ClassRow) : (p.setClassRow k x).moves = p.moves := rfl
@[simp] theorem Part.setClassRow_trucks (p : Part) (k : PClass) (x : ClassRow) : (p.setClassRow k x).trucks = p.trucks := rfl
@[simp] theorem Part.setClassRow_dirRun (p : Part) (k : PClass) (x : ClassRow) : (p.setClassRow k x).dirRun = p.dirRun := rfl
@[simp] theorem Part.setClassRow_alarms (p : Part) (k : PClass) (x : ClassRow) : (p.setClassRow k x).alarms = p.alarms := rfl
@[simp] theorem Part.setClassRow_settled (p : Part) (k : PClass) (x : ClassRow) : (p.setClassRow k x).settled = p.settled := rfl
@[simp] theorem Part.setClassRow_changes (p : Part) (k : PClass) (x : ClassRow) : (p.setClassRow k x).changes = p.changes := rfl
@[simp] theorem Part.setClassRow_links (p : Part) (k : PClass) (x : ClassRow) : (p.setClassRow k x).links = p.links := rfl

/-! ### setRoute -/

@[simp] theorem Part.setRoute_time (p : Part) (k : Kind) (x : Route) : (p.setRoute k x).time = p.time := rfl
@[simp] theorem Part.setRoute_rooms (p : Part) (k : Kind) (x : Route) : (p.setRoute k x).rooms = p.rooms := rfl
@[simp] theorem Part.setRoute_doors (p : Part) (k : Kind) (x : Route) : (p.setRoute k x).doors = p.doors := rfl
@[simp] theorem Part.setRoute_coils (p : Part) (k : Kind) (x : Route) : (p.setRoute k x).coils = p.coils := rfl
@[simp] theorem Part.setRoute_due (p : Part) (k : Kind) (x : Route) : (p.setRoute k x).due = p.due := rfl
@[simp] theorem Part.setRoute_pallets (p : Part) (k : Kind) (x : Route) : (p.setRoute k x).pallets = p.pallets := rfl
@[simp] theorem Part.setRoute_moves (p : Part) (k : Kind) (x : Route) : (p.setRoute k x).moves = p.moves := rfl
@[simp] theorem Part.setRoute_trucks (p : Part) (k : Kind) (x : Route) : (p.setRoute k x).trucks = p.trucks := rfl
@[simp] theorem Part.setRoute_dirRun (p : Part) (k : Kind) (x : Route) : (p.setRoute k x).dirRun = p.dirRun := rfl
@[simp] theorem Part.setRoute_alarms (p : Part) (k : Kind) (x : Route) : (p.setRoute k x).alarms = p.alarms := rfl
@[simp] theorem Part.setRoute_settled (p : Part) (k : Kind) (x : Route) : (p.setRoute k x).settled = p.settled := rfl
@[simp] theorem Part.setRoute_changes (p : Part) (k : Kind) (x : Route) : (p.setRoute k x).changes = p.changes := rfl
@[simp] theorem Part.setRoute_links (p : Part) (k : Kind) (x : Route) : (p.setRoute k x).links = p.links := rfl

/-! ### setLock -/

@[simp] theorem Part.setLock_time (p : Part) (g : Group) : (p.setLock g).time = p.time := rfl
@[simp] theorem Part.setLock_rooms (p : Part) (g : Group) : (p.setLock g).rooms = p.rooms := rfl
@[simp] theorem Part.setLock_doors (p : Part) (g : Group) : (p.setLock g).doors = p.doors := rfl
@[simp] theorem Part.setLock_coils (p : Part) (g : Group) : (p.setLock g).coils = p.coils := rfl
@[simp] theorem Part.setLock_due (p : Part) (g : Group) : (p.setLock g).due = p.due := rfl
@[simp] theorem Part.setLock_pallets (p : Part) (g : Group) : (p.setLock g).pallets = p.pallets := rfl
@[simp] theorem Part.setLock_moves (p : Part) (g : Group) : (p.setLock g).moves = p.moves := rfl
@[simp] theorem Part.setLock_trucks (p : Part) (g : Group) : (p.setLock g).trucks = p.trucks := rfl
@[simp] theorem Part.setLock_dirRun (p : Part) (g : Group) : (p.setLock g).dirRun = p.dirRun := rfl
@[simp] theorem Part.setLock_alarms (p : Part) (g : Group) : (p.setLock g).alarms = p.alarms := rfl
@[simp] theorem Part.setLock_settled (p : Part) (g : Group) : (p.setLock g).settled = p.settled := rfl
@[simp] theorem Part.setLock_changes (p : Part) (g : Group) : (p.setLock g).changes = p.changes := rfl
@[simp] theorem Part.setLock_links (p : Part) (g : Group) : (p.setLock g).links = p.links := rfl

/-! ### notify -/

@[simp] theorem Part.notify_time (p : Part) (l : Link) (n : Notice) : (p.notify l n).time = p.time := rfl
@[simp] theorem Part.notify_store (p : Part) (l : Link) (n : Notice) : (p.notify l n).store = p.store := rfl
@[simp] theorem Part.notify_rooms (p : Part) (l : Link) (n : Notice) : (p.notify l n).rooms = p.rooms := rfl
@[simp] theorem Part.notify_doors (p : Part) (l : Link) (n : Notice) : (p.notify l n).doors = p.doors := rfl
@[simp] theorem Part.notify_coils (p : Part) (l : Link) (n : Notice) : (p.notify l n).coils = p.coils := rfl
@[simp] theorem Part.notify_due (p : Part) (l : Link) (n : Notice) : (p.notify l n).due = p.due := rfl
@[simp] theorem Part.notify_pallets (p : Part) (l : Link) (n : Notice) : (p.notify l n).pallets = p.pallets := rfl
@[simp] theorem Part.notify_moves (p : Part) (l : Link) (n : Notice) : (p.notify l n).moves = p.moves := rfl
@[simp] theorem Part.notify_trucks (p : Part) (l : Link) (n : Notice) : (p.notify l n).trucks = p.trucks := rfl
@[simp] theorem Part.notify_dirRun (p : Part) (l : Link) (n : Notice) : (p.notify l n).dirRun = p.dirRun := rfl
@[simp] theorem Part.notify_alarms (p : Part) (l : Link) (n : Notice) : (p.notify l n).alarms = p.alarms := rfl
@[simp] theorem Part.notify_settled (p : Part) (l : Link) (n : Notice) : (p.notify l n).settled = p.settled := rfl
@[simp] theorem Part.notify_changes (p : Part) (l : Link) (n : Notice) : (p.notify l n).changes = p.changes := rfl

/-! ### onChanges -/

@[simp] theorem Part.onChanges_time (p : Part) (f : ChangeSet → ChangeSet) : (p.onChanges f).time = p.time := rfl
@[simp] theorem Part.onChanges_store (p : Part) (f : ChangeSet → ChangeSet) : (p.onChanges f).store = p.store := rfl
@[simp] theorem Part.onChanges_rooms (p : Part) (f : ChangeSet → ChangeSet) : (p.onChanges f).rooms = p.rooms := rfl
@[simp] theorem Part.onChanges_doors (p : Part) (f : ChangeSet → ChangeSet) : (p.onChanges f).doors = p.doors := rfl
@[simp] theorem Part.onChanges_coils (p : Part) (f : ChangeSet → ChangeSet) : (p.onChanges f).coils = p.coils := rfl
@[simp] theorem Part.onChanges_due (p : Part) (f : ChangeSet → ChangeSet) : (p.onChanges f).due = p.due := rfl
@[simp] theorem Part.onChanges_pallets (p : Part) (f : ChangeSet → ChangeSet) : (p.onChanges f).pallets = p.pallets := rfl
@[simp] theorem Part.onChanges_moves (p : Part) (f : ChangeSet → ChangeSet) : (p.onChanges f).moves = p.moves := rfl
@[simp] theorem Part.onChanges_trucks (p : Part) (f : ChangeSet → ChangeSet) : (p.onChanges f).trucks = p.trucks := rfl
@[simp] theorem Part.onChanges_dirRun (p : Part) (f : ChangeSet → ChangeSet) : (p.onChanges f).dirRun = p.dirRun := rfl
@[simp] theorem Part.onChanges_alarms (p : Part) (f : ChangeSet → ChangeSet) : (p.onChanges f).alarms = p.alarms := rfl
@[simp] theorem Part.onChanges_settled (p : Part) (f : ChangeSet → ChangeSet) : (p.onChanges f).settled = p.settled := rfl
@[simp] theorem Part.onChanges_links (p : Part) (f : ChangeSet → ChangeSet) : (p.onChanges f).links = p.links := rfl

/-! ### updPallet -/

@[simp] theorem Part.updPallet_time (p : Part) (t : Tag) (f : Pallet → Pallet) : (p.updPallet t f).time = p.time := rfl
@[simp] theorem Part.updPallet_store (p : Part) (t : Tag) (f : Pallet → Pallet) : (p.updPallet t f).store = p.store := rfl
@[simp] theorem Part.updPallet_rooms (p : Part) (t : Tag) (f : Pallet → Pallet) : (p.updPallet t f).rooms = p.rooms := rfl
@[simp] theorem Part.updPallet_doors (p : Part) (t : Tag) (f : Pallet → Pallet) : (p.updPallet t f).doors = p.doors := rfl
@[simp] theorem Part.updPallet_coils (p : Part) (t : Tag) (f : Pallet → Pallet) : (p.updPallet t f).coils = p.coils := rfl
@[simp] theorem Part.updPallet_due (p : Part) (t : Tag) (f : Pallet → Pallet) : (p.updPallet t f).due = p.due := rfl
@[simp] theorem Part.updPallet_moves (p : Part) (t : Tag) (f : Pallet → Pallet) : (p.updPallet t f).moves = p.moves := rfl
@[simp] theorem Part.updPallet_trucks (p : Part) (t : Tag) (f : Pallet → Pallet) : (p.updPallet t f).trucks = p.trucks := rfl
@[simp] theorem Part.updPallet_dirRun (p : Part) (t : Tag) (f : Pallet → Pallet) : (p.updPallet t f).dirRun = p.dirRun := rfl
@[simp] theorem Part.updPallet_alarms (p : Part) (t : Tag) (f : Pallet → Pallet) : (p.updPallet t f).alarms = p.alarms := rfl
@[simp] theorem Part.updPallet_settled (p : Part) (t : Tag) (f : Pallet → Pallet) : (p.updPallet t f).settled = p.settled := rfl
@[simp] theorem Part.updPallet_changes (p : Part) (t : Tag) (f : Pallet → Pallet) : (p.updPallet t f).changes = p.changes := rfl
@[simp] theorem Part.updPallet_links (p : Part) (t : Tag) (f : Pallet → Pallet) : (p.updPallet t f).links = p.links := rfl

/-! ### updMove -/

@[simp] theorem Part.updMove_time (p : Part) (t : Tag) (f : Move → Move) : (p.updMove t f).time = p.time := rfl
@[simp] theorem Part.updMove_store (p : Part) (t : Tag) (f : Move → Move) : (p.updMove t f).store = p.store := rfl
@[simp] theorem Part.updMove_rooms (p : Part) (t : Tag) (f : Move → Move) : (p.updMove t f).rooms = p.rooms := rfl
@[simp] theorem Part.updMove_doors (p : Part) (t : Tag) (f : Move → Move) : (p.updMove t f).doors = p.doors := rfl
@[simp] theorem Part.updMove_coils (p : Part) (t : Tag) (f : Move → Move) : (p.updMove t f).coils = p.coils := rfl
@[simp] theorem Part.updMove_due (p : Part) (t : Tag) (f : Move → Move) : (p.updMove t f).due = p.due := rfl
@[simp] theorem Part.updMove_pallets (p : Part) (t : Tag) (f : Move → Move) : (p.updMove t f).pallets = p.pallets := rfl
@[simp] theorem Part.updMove_trucks (p : Part) (t : Tag) (f : Move → Move) : (p.updMove t f).trucks = p.trucks := rfl
@[simp] theorem Part.updMove_dirRun (p : Part) (t : Tag) (f : Move → Move) : (p.updMove t f).dirRun = p.dirRun := rfl
@[simp] theorem Part.updMove_alarms (p : Part) (t : Tag) (f : Move → Move) : (p.updMove t f).alarms = p.alarms := rfl
@[simp] theorem Part.updMove_settled (p : Part) (t : Tag) (f : Move → Move) : (p.updMove t f).settled = p.settled := rfl
@[simp] theorem Part.updMove_changes (p : Part) (t : Tag) (f : Move → Move) : (p.updMove t f).changes = p.changes := rfl
@[simp] theorem Part.updMove_links (p : Part) (t : Tag) (f : Move → Move) : (p.updMove t f).links = p.links := rfl

/-! ### dropMove -/

@[simp] theorem Part.dropMove_time (p : Part) (t : Tag) : (p.dropMove t).time = p.time := rfl
@[simp] theorem Part.dropMove_store (p : Part) (t : Tag) : (p.dropMove t).store = p.store := rfl
@[simp] theorem Part.dropMove_rooms (p : Part) (t : Tag) : (p.dropMove t).rooms = p.rooms := rfl
@[simp] theorem Part.dropMove_doors (p : Part) (t : Tag) : (p.dropMove t).doors = p.doors := rfl
@[simp] theorem Part.dropMove_coils (p : Part) (t : Tag) : (p.dropMove t).coils = p.coils := rfl
@[simp] theorem Part.dropMove_due (p : Part) (t : Tag) : (p.dropMove t).due = p.due := rfl
@[simp] theorem Part.dropMove_pallets (p : Part) (t : Tag) : (p.dropMove t).pallets = p.pallets := rfl
@[simp] theorem Part.dropMove_trucks (p : Part) (t : Tag) : (p.dropMove t).trucks = p.trucks := rfl
@[simp] theorem Part.dropMove_dirRun (p : Part) (t : Tag) : (p.dropMove t).dirRun = p.dirRun := rfl
@[simp] theorem Part.dropMove_alarms (p : Part) (t : Tag) : (p.dropMove t).alarms = p.alarms := rfl
@[simp] theorem Part.dropMove_settled (p : Part) (t : Tag) : (p.dropMove t).settled = p.settled := rfl
@[simp] theorem Part.dropMove_changes (p : Part) (t : Tag) : (p.dropMove t).changes = p.changes := rfl
@[simp] theorem Part.dropMove_links (p : Part) (t : Tag) : (p.dropMove t).links = p.links := rfl

/-! ### updAlarm -/

@[simp] theorem Part.updAlarm_time (p : Part) (k : Kind) (o : Nat) (f : Alarm → Alarm) : (p.updAlarm k o f).time = p.time := rfl
@[simp] theorem Part.updAlarm_store (p : Part) (k : Kind) (o : Nat) (f : Alarm → Alarm) : (p.updAlarm k o f).store = p.store := rfl
@[simp] theorem Part.updAlarm_rooms (p : Part) (k : Kind) (o : Nat) (f : Alarm → Alarm) : (p.updAlarm k o f).rooms = p.rooms := rfl
@[simp] theorem Part.updAlarm_doors (p : Part) (k : Kind) (o : Nat) (f : Alarm → Alarm) : (p.updAlarm k o f).doors = p.doors := rfl
@[simp] theorem Part.updAlarm_coils (p : Part) (k : Kind) (o : Nat) (f : Alarm → Alarm) : (p.updAlarm k o f).coils = p.coils := rfl
@[simp] theorem Part.updAlarm_due (p : Part) (k : Kind) (o : Nat) (f : Alarm → Alarm) : (p.updAlarm k o f).due = p.due := rfl
@[simp] theorem Part.updAlarm_pallets (p : Part) (k : Kind) (o : Nat) (f : Alarm → Alarm) : (p.updAlarm k o f).pallets = p.pallets := rfl
@[simp] theorem Part.updAlarm_moves (p : Part) (k : Kind) (o : Nat) (f : Alarm → Alarm) : (p.updAlarm k o f).moves = p.moves := rfl
@[simp] theorem Part.updAlarm_trucks (p : Part) (k : Kind) (o : Nat) (f : Alarm → Alarm) : (p.updAlarm k o f).trucks = p.trucks := rfl
@[simp] theorem Part.updAlarm_dirRun (p : Part) (k : Kind) (o : Nat) (f : Alarm → Alarm) : (p.updAlarm k o f).dirRun = p.dirRun := rfl
@[simp] theorem Part.updAlarm_settled (p : Part) (k : Kind) (o : Nat) (f : Alarm → Alarm) : (p.updAlarm k o f).settled = p.settled := rfl
@[simp] theorem Part.updAlarm_changes (p : Part) (k : Kind) (o : Nat) (f : Alarm → Alarm) : (p.updAlarm k o f).changes = p.changes := rfl
@[simp] theorem Part.updAlarm_links (p : Part) (k : Kind) (o : Nat) (f : Alarm → Alarm) : (p.updAlarm k o f).links = p.links := rfl

/-! ### dropAlarm -/

@[simp] theorem Part.dropAlarm_time (p : Part) (k : Kind) (o : Nat) : (p.dropAlarm k o).time = p.time := rfl
@[simp] theorem Part.dropAlarm_store (p : Part) (k : Kind) (o : Nat) : (p.dropAlarm k o).store = p.store := rfl
@[simp] theorem Part.dropAlarm_rooms (p : Part) (k : Kind) (o : Nat) : (p.dropAlarm k o).rooms = p.rooms := rfl
@[simp] theorem Part.dropAlarm_doors (p : Part) (k : Kind) (o : Nat) : (p.dropAlarm k o).doors = p.doors := rfl
@[simp] theorem Part.dropAlarm_coils (p : Part) (k : Kind) (o : Nat) : (p.dropAlarm k o).coils = p.coils := rfl
@[simp] theorem Part.dropAlarm_due (p : Part) (k : Kind) (o : Nat) : (p.dropAlarm k o).due = p.due := rfl
@[simp] theorem Part.dropAlarm_pallets (p : Part) (k : Kind) (o : Nat) : (p.dropAlarm k o).pallets = p.pallets := rfl
@[simp] theorem Part.dropAlarm_moves (p : Part) (k : Kind) (o : Nat) : (p.dropAlarm k o).moves = p.moves := rfl
@[simp] theorem Part.dropAlarm_trucks (p : Part) (k : Kind) (o : Nat) : (p.dropAlarm k o).trucks = p.trucks := rfl
@[simp] theorem Part.dropAlarm_dirRun (p : Part) (k : Kind) (o : Nat) : (p.dropAlarm k o).dirRun = p.dirRun := rfl
@[simp] theorem Part.dropAlarm_settled (p : Part) (k : Kind) (o : Nat) : (p.dropAlarm k o).settled = p.settled := rfl
@[simp] theorem Part.dropAlarm_changes (p : Part) (k : Kind) (o : Nat) : (p.dropAlarm k o).changes = p.changes := rfl
@[simp] theorem Part.dropAlarm_links (p : Part) (k : Kind) (o : Nat) : (p.dropAlarm k o).links = p.links := rfl

/-! ### settle -/

@[simp] theorem Part.settle_time (p : Part) (k : Kind) (o : Nat) : (p.settle k o).time = p.time := rfl
@[simp] theorem Part.settle_store (p : Part) (k : Kind) (o : Nat) : (p.settle k o).store = p.store := rfl
@[simp] theorem Part.settle_rooms (p : Part) (k : Kind) (o : Nat) : (p.settle k o).rooms = p.rooms := rfl
@[simp] theorem Part.settle_doors (p : Part) (k : Kind) (o : Nat) : (p.settle k o).doors = p.doors := rfl
@[simp] theorem Part.settle_coils (p : Part) (k : Kind) (o : Nat) : (p.settle k o).coils = p.coils := rfl
@[simp] theorem Part.settle_due (p : Part) (k : Kind) (o : Nat) : (p.settle k o).due = p.due := rfl
@[simp] theorem Part.settle_pallets (p : Part) (k : Kind) (o : Nat) : (p.settle k o).pallets = p.pallets := rfl
@[simp] theorem Part.settle_moves (p : Part) (k : Kind) (o : Nat) : (p.settle k o).moves = p.moves := rfl
@[simp] theorem Part.settle_trucks (p : Part) (k : Kind) (o : Nat) : (p.settle k o).trucks = p.trucks := rfl
@[simp] theorem Part.settle_dirRun (p : Part) (k : Kind) (o : Nat) : (p.settle k o).dirRun = p.dirRun := rfl
@[simp] theorem Part.settle_alarms (p : Part) (k : Kind) (o : Nat) : (p.settle k o).alarms = p.alarms := rfl
@[simp] theorem Part.settle_changes (p : Part) (k : Kind) (o : Nat) : (p.settle k o).changes = p.changes := rfl
@[simp] theorem Part.settle_links (p : Part) (k : Kind) (o : Nat) : (p.settle k o).links = p.links := rfl

/-! ### unsettle -/

@[simp] theorem Part.unsettle_time (p : Part) (k : Kind) (o : Nat) : (p.unsettle k o).time = p.time := rfl
@[simp] theorem Part.unsettle_store (p : Part) (k : Kind) (o : Nat) : (p.unsettle k o).store = p.store := rfl
@[simp] theorem Part.unsettle_rooms (p : Part) (k : Kind) (o : Nat) : (p.unsettle k o).rooms = p.rooms := rfl
@[simp] theorem Part.unsettle_doors (p : Part) (k : Kind) (o : Nat) : (p.unsettle k o).doors = p.doors := rfl
@[simp] theorem Part.unsettle_coils (p : Part) (k : Kind) (o : Nat) : (p.unsettle k o).coils = p.coils := rfl
@[simp] theorem Part.unsettle_due (p : Part) (k : Kind) (o : Nat) : (p.unsettle k o).due = p.due := rfl
@[simp] theorem Part.unsettle_pallets (p : Part) (k : Kind) (o : Nat) : (p.unsettle k o).pallets = p.pallets := rfl
@[simp] theorem Part.unsettle_moves (p : Part) (k : Kind) (o : Nat) : (p.unsettle k o).moves = p.moves := rfl
@[simp] theorem Part.unsettle_trucks (p : Part) (k : Kind) (o : Nat) : (p.unsettle k o).trucks = p.trucks := rfl
@[simp] theorem Part.unsettle_dirRun (p : Part) (k : Kind) (o : Nat) : (p.unsettle k o).dirRun = p.dirRun := rfl
@[simp] theorem Part.unsettle_alarms (p : Part) (k : Kind) (o : Nat) : (p.unsettle k o).alarms = p.alarms := rfl
@[simp] theorem Part.unsettle_changes (p : Part) (k : Kind) (o : Nat) : (p.unsettle k o).changes = p.changes := rfl
@[simp] theorem Part.unsettle_links (p : Part) (k : Kind) (o : Nat) : (p.unsettle k o).links = p.links := rfl

/-! ### startSending -/

@[simp] theorem Part.startSending_time (p : Part) : (p.startSending).time = p.time := rfl
@[simp] theorem Part.startSending_store (p : Part) : (p.startSending).store = p.store := rfl
@[simp] theorem Part.startSending_rooms (p : Part) : (p.startSending).rooms = p.rooms := rfl
@[simp] theorem Part.startSending_doors (p : Part) : (p.startSending).doors = p.doors := rfl
@[simp] theorem Part.startSending_coils (p : Part) : (p.startSending).coils = p.coils := rfl
@[simp] theorem Part.startSending_due (p : Part) : (p.startSending).due = p.due := rfl
@[simp] theorem Part.startSending_pallets (p : Part) : (p.startSending).pallets = p.pallets := rfl
@[simp] theorem Part.startSending_moves (p : Part) : (p.startSending).moves = p.moves := rfl
@[simp] theorem Part.startSending_trucks (p : Part) : (p.startSending).trucks = p.trucks := rfl
@[simp] theorem Part.startSending_dirRun (p : Part) : (p.startSending).dirRun = p.dirRun := rfl
@[simp] theorem Part.startSending_alarms (p : Part) : (p.startSending).alarms = p.alarms := rfl
@[simp] theorem Part.startSending_settled (p : Part) : (p.startSending).settled = p.settled := rfl
@[simp] theorem Part.startSending_changes (p : Part) : (p.startSending).changes = p.changes := rfl

/-! ### A record read back -/

@[simp] theorem Part.room_updRoom (p : Part) (r : RoomId) (f : Room → Room) : (p.updRoom r f).room r = f (p.room r) := by
  simp [Part.room, Part.updRoom]

theorem Part.room_updRoom_ne (p : Part) {r e : RoomId} (f : Room → Room) (h : r ≠ e) :
    (p.updRoom r f).room e = p.room e := by
  have h' : r.val ≠ e.val := fun x => h (Fin.ext x)
  simp [Part.room, Part.updRoom, h']

@[simp] theorem Part.door_updDoor (p : Part) (r : DoorId) (f : Door → Door) : (p.updDoor r f).door r = f (p.door r) := by
  simp [Part.door, Part.updDoor]

theorem Part.door_updDoor_ne (p : Part) {r e : DoorId} (f : Door → Door) (h : r ≠ e) :
    (p.updDoor r f).door e = p.door e := by
  have h' : r.val ≠ e.val := fun x => h (Fin.ext x)
  simp [Part.door, Part.updDoor, h']

@[simp] theorem Part.coil_updCoil (p : Part) (r : CoilId) (f : Coil → Coil) : (p.updCoil r f).coil r = f (p.coil r) := by
  simp [Part.coil, Part.updCoil]

theorem Part.coil_updCoil_ne (p : Part) {r e : CoilId} (f : Coil → Coil) (h : r ≠ e) :
    (p.updCoil r f).coil e = p.coil e := by
  have h' : r.val ≠ e.val := fun x => h (Fin.ext x)
  simp [Part.coil, Part.updCoil, h']

/-- Two links with one place are one link. -/
theorem linkIndex_injective {l m : Link} (h : linkIndex l = linkIndex m) : l = m := by
  cases l <;> cases m <;> simp_all [linkIndex]

@[simp] theorem Part.link_updLink (p : Part) (l : Link) (f : LinkState → LinkState) :
    (p.updLink l f).link l = f (p.link l) := by
  simp [Part.link, Part.updLink]

theorem Part.link_updLink_ne (p : Part) {l m : Link} (f : LinkState → LinkState) (h : l ≠ m) :
    (p.updLink l f).link m = p.link m := by
  have h' : (linkIndex l).val ≠ (linkIndex m).val := fun x => h (linkIndex_injective (Fin.ext x))
  simp [Part.link, Part.updLink, h']

@[simp] theorem Part.change_updChange (p : Part) (l : Link) (f : ChangeSet → ChangeSet) :
    (p.updChange l f).change l = f (p.change l) := by
  simp [Part.change, Part.updChange]

theorem Part.change_updChange_ne (p : Part) {l m : Link} (f : ChangeSet → ChangeSet) (h : l ≠ m) :
    (p.updChange l f).change m = p.change m := by
  have h' : (linkIndex l).val ≠ (linkIndex m).val := fun x => h (linkIndex_injective (Fin.ext x))
  simp [Part.change, Part.updChange, h']

/-! ### A record read after another table was updated -/

@[simp] theorem Part.door_after_updRoom (p : Part) (r : RoomId) (f : Room → Room) (e : DoorId) : (p.updRoom r f).door e = p.door e := rfl
@[simp] theorem Part.coil_after_updRoom (p : Part) (r : RoomId) (f : Room → Room) (e : CoilId) : (p.updRoom r f).coil e = p.coil e := rfl
@[simp] theorem Part.link_after_updRoom (p : Part) (r : RoomId) (f : Room → Room) (e : Link) : (p.updRoom r f).link e = p.link e := rfl
@[simp] theorem Part.change_after_updRoom (p : Part) (r : RoomId) (f : Room → Room) (e : Link) : (p.updRoom r f).change e = p.change e := rfl
@[simp] theorem Part.roomSet_after_updRoom (p : Part) (r : RoomId) (f : Room → Room) (e : RoomId) : (p.updRoom r f).roomSet e = p.roomSet e := rfl
@[simp] theorem Part.doorSet_after_updRoom (p : Part) (r : RoomId) (f : Room → Room) (e : DoorId) : (p.updRoom r f).doorSet e = p.doorSet e := rfl
@[simp] theorem Part.coilSet_after_updRoom (p : Part) (r : RoomId) (f : Room → Room) (e : CoilId) : (p.updRoom r f).coilSet e = p.coilSet e := rfl
@[simp] theorem Part.route_after_updRoom (p : Part) (r : RoomId) (f : Room → Room) (e : Kind) : (p.updRoom r f).route e = p.route e := rfl
@[simp] theorem Part.classRow_after_updRoom (p : Part) (r : RoomId) (f : Room → Room) (e : PClass) : (p.updRoom r f).classRow e = p.classRow e := rfl
@[simp] theorem Part.coilRoom_after_updRoom (p : Part) (r : RoomId) (f : Room → Room) (e : CoilId) : (p.updRoom r f).coilRoom e = p.coilRoom e := rfl
@[simp] theorem Part.inner_after_updRoom (p : Part) (r : RoomId) (f : Room → Room) (e : DoorId) : (p.updRoom r f).inner e = p.inner e := rfl
@[simp] theorem Part.running_after_updRoom (p : Part) (r : RoomId) (f : Room → Room) : (p.updRoom r f).running = p.running := rfl
@[simp] theorem Part.now_after_updRoom (p : Part) (r : RoomId) (f : Room → Room) : (p.updRoom r f).now = p.now := rfl
@[simp] theorem Part.pallet_of_after_updRoom (p : Part) (r : RoomId) (f : Room → Room) (e : Tag) : (p.updRoom r f).pallet? e = p.pallet? e := rfl
@[simp] theorem Part.move_of_after_updRoom (p : Part) (r : RoomId) (f : Room → Room) (e : Tag) : (p.updRoom r f).move? e = p.move? e := rfl

@[simp] theorem Part.room_after_updDoor (p : Part) (d : DoorId) (f : Door → Door) (e : RoomId) : (p.updDoor d f).room e = p.room e := rfl
@[simp] theorem Part.coil_after_updDoor (p : Part) (d : DoorId) (f : Door → Door) (e : CoilId) : (p.updDoor d f).coil e = p.coil e := rfl
@[simp] theorem Part.link_after_updDoor (p : Part) (d : DoorId) (f : Door → Door) (e : Link) : (p.updDoor d f).link e = p.link e := rfl
@[simp] theorem Part.change_after_updDoor (p : Part) (d : DoorId) (f : Door → Door) (e : Link) : (p.updDoor d f).change e = p.change e := rfl
@[simp] theorem Part.roomSet_after_updDoor (p : Part) (d : DoorId) (f : Door → Door) (e : RoomId) : (p.updDoor d f).roomSet e = p.roomSet e := rfl
@[simp] theorem Part.doorSet_after_updDoor (p : Part) (d : DoorId) (f : Door → Door) (e : DoorId) : (p.updDoor d f).doorSet e = p.doorSet e := rfl
@[simp] theorem Part.coilSet_after_updDoor (p : Part) (d : DoorId) (f : Door → Door) (e : CoilId) : (p.updDoor d f).coilSet e = p.coilSet e := rfl
@[simp] theorem Part.route_after_updDoor (p : Part) (d : DoorId) (f : Door → Door) (e : Kind) : (p.updDoor d f).route e = p.route e := rfl
@[simp] theorem Part.classRow_after_updDoor (p : Part) (d : DoorId) (f : Door → Door) (e : PClass) : (p.updDoor d f).classRow e = p.classRow e := rfl
@[simp] theorem Part.coilRoom_after_updDoor (p : Part) (d : DoorId) (f : Door → Door) (e : CoilId) : (p.updDoor d f).coilRoom e = p.coilRoom e := rfl
@[simp] theorem Part.inner_after_updDoor (p : Part) (d : DoorId) (f : Door → Door) (e : DoorId) : (p.updDoor d f).inner e = p.inner e := rfl
@[simp] theorem Part.running_after_updDoor (p : Part) (d : DoorId) (f : Door → Door) : (p.updDoor d f).running = p.running := rfl
@[simp] theorem Part.now_after_updDoor (p : Part) (d : DoorId) (f : Door → Door) : (p.updDoor d f).now = p.now := rfl
@[simp] theorem Part.pallet_of_after_updDoor (p : Part) (d : DoorId) (f : Door → Door) (e : Tag) : (p.updDoor d f).pallet? e = p.pallet? e := rfl
@[simp] theorem Part.move_of_after_updDoor (p : Part) (d : DoorId) (f : Door → Door) (e : Tag) : (p.updDoor d f).move? e = p.move? e := rfl

@[simp] theorem Part.room_after_updCoil (p : Part) (c : CoilId) (f : Coil → Coil) (e : RoomId) : (p.updCoil c f).room e = p.room e := rfl
@[simp] theorem Part.door_after_updCoil (p : Part) (c : CoilId) (f : Coil → Coil) (e : DoorId) : (p.updCoil c f).door e = p.door e := rfl
@[simp] theorem Part.link_after_updCoil (p : Part) (c : CoilId) (f : Coil → Coil) (e : Link) : (p.updCoil c f).link e = p.link e := rfl
@[simp] theorem Part.change_after_updCoil (p : Part) (c : CoilId) (f : Coil → Coil) (e : Link) : (p.updCoil c f).change e = p.change e := rfl
@[simp] theorem Part.roomSet_after_updCoil (p : Part) (c : CoilId) (f : Coil → Coil) (e : RoomId) : (p.updCoil c f).roomSet e = p.roomSet e := rfl
@[simp] theorem Part.doorSet_after_updCoil (p : Part) (c : CoilId) (f : Coil → Coil) (e : DoorId) : (p.updCoil c f).doorSet e = p.doorSet e := rfl
@[simp] theorem Part.coilSet_after_updCoil (p : Part) (c : CoilId) (f : Coil → Coil) (e : CoilId) : (p.updCoil c f).coilSet e = p.coilSet e := rfl
@[simp] theorem Part.route_after_updCoil (p : Part) (c : CoilId) (f : Coil → Coil) (e : Kind) : (p.updCoil c f).route e = p.route e := rfl
@[simp] theorem Part.classRow_after_updCoil (p : Part) (c : CoilId) (f : Coil → Coil) (e : PClass) : (p.updCoil c f).classRow e = p.classRow e := rfl
@[simp] theorem Part.coilRoom_after_updCoil (p : Part) (c : CoilId) (f : Coil → Coil) (e : CoilId) : (p.updCoil c f).coilRoom e = p.coilRoom e := rfl
@[simp] theorem Part.inner_after_updCoil (p : Part) (c : CoilId) (f : Coil → Coil) (e : DoorId) : (p.updCoil c f).inner e = p.inner e := rfl
@[simp] theorem Part.running_after_updCoil (p : Part) (c : CoilId) (f : Coil → Coil) : (p.updCoil c f).running = p.running := rfl
@[simp] theorem Part.now_after_updCoil (p : Part) (c : CoilId) (f : Coil → Coil) : (p.updCoil c f).now = p.now := rfl
@[simp] theorem Part.pallet_of_after_updCoil (p : Part) (c : CoilId) (f : Coil → Coil) (e : Tag) : (p.updCoil c f).pallet? e = p.pallet? e := rfl
@[simp] theorem Part.move_of_after_updCoil (p : Part) (c : CoilId) (f : Coil → Coil) (e : Tag) : (p.updCoil c f).move? e = p.move? e := rfl

@[simp] theorem Part.room_after_updLink (p : Part) (l : Link) (f : LinkState → LinkState) (e : RoomId) : (p.updLink l f).room e = p.room e := rfl
@[simp] theorem Part.door_after_updLink (p : Part) (l : Link) (f : LinkState → LinkState) (e : DoorId) : (p.updLink l f).door e = p.door e := rfl
@[simp] theorem Part.coil_after_updLink (p : Part) (l : Link) (f : LinkState → LinkState) (e : CoilId) : (p.updLink l f).coil e = p.coil e := rfl
@[simp] theorem Part.change_after_updLink (p : Part) (l : Link) (f : LinkState → LinkState) (e : Link) : (p.updLink l f).change e = p.change e := rfl
@[simp] theorem Part.roomSet_after_updLink (p : Part) (l : Link) (f : LinkState → LinkState) (e : RoomId) : (p.updLink l f).roomSet e = p.roomSet e := rfl
@[simp] theorem Part.doorSet_after_updLink (p : Part) (l : Link) (f : LinkState → LinkState) (e : DoorId) : (p.updLink l f).doorSet e = p.doorSet e := rfl
@[simp] theorem Part.coilSet_after_updLink (p : Part) (l : Link) (f : LinkState → LinkState) (e : CoilId) : (p.updLink l f).coilSet e = p.coilSet e := rfl
@[simp] theorem Part.route_after_updLink (p : Part) (l : Link) (f : LinkState → LinkState) (e : Kind) : (p.updLink l f).route e = p.route e := rfl
@[simp] theorem Part.classRow_after_updLink (p : Part) (l : Link) (f : LinkState → LinkState) (e : PClass) : (p.updLink l f).classRow e = p.classRow e := rfl
@[simp] theorem Part.coilRoom_after_updLink (p : Part) (l : Link) (f : LinkState → LinkState) (e : CoilId) : (p.updLink l f).coilRoom e = p.coilRoom e := rfl
@[simp] theorem Part.inner_after_updLink (p : Part) (l : Link) (f : LinkState → LinkState) (e : DoorId) : (p.updLink l f).inner e = p.inner e := rfl
@[simp] theorem Part.running_after_updLink (p : Part) (l : Link) (f : LinkState → LinkState) : (p.updLink l f).running = p.running := rfl
@[simp] theorem Part.now_after_updLink (p : Part) (l : Link) (f : LinkState → LinkState) : (p.updLink l f).now = p.now := rfl
@[simp] theorem Part.pallet_of_after_updLink (p : Part) (l : Link) (f : LinkState → LinkState) (e : Tag) : (p.updLink l f).pallet? e = p.pallet? e := rfl
@[simp] theorem Part.move_of_after_updLink (p : Part) (l : Link) (f : LinkState → LinkState) (e : Tag) : (p.updLink l f).move? e = p.move? e := rfl

@[simp] theorem Part.room_after_updChange (p : Part) (l : Link) (f : ChangeSet → ChangeSet) (e : RoomId) : (p.updChange l f).room e = p.room e := rfl
@[simp] theorem Part.door_after_updChange (p : Part) (l : Link) (f : ChangeSet → ChangeSet) (e : DoorId) : (p.updChange l f).door e = p.door e := rfl
@[simp] theorem Part.coil_after_updChange (p : Part) (l : Link) (f : ChangeSet → ChangeSet) (e : CoilId) : (p.updChange l f).coil e = p.coil e := rfl
@[simp] theorem Part.link_after_updChange (p : Part) (l : Link) (f : ChangeSet → ChangeSet) (e : Link) : (p.updChange l f).link e = p.link e := rfl
@[simp] theorem Part.roomSet_after_updChange (p : Part) (l : Link) (f : ChangeSet → ChangeSet) (e : RoomId) : (p.updChange l f).roomSet e = p.roomSet e := rfl
@[simp] theorem Part.doorSet_after_updChange (p : Part) (l : Link) (f : ChangeSet → ChangeSet) (e : DoorId) : (p.updChange l f).doorSet e = p.doorSet e := rfl
@[simp] theorem Part.coilSet_after_updChange (p : Part) (l : Link) (f : ChangeSet → ChangeSet) (e : CoilId) : (p.updChange l f).coilSet e = p.coilSet e := rfl
@[simp] theorem Part.route_after_updChange (p : Part) (l : Link) (f : ChangeSet → ChangeSet) (e : Kind) : (p.updChange l f).route e = p.route e := rfl
@[simp] theorem Part.classRow_after_updChange (p : Part) (l : Link) (f : ChangeSet → ChangeSet) (e : PClass) : (p.updChange l f).classRow e = p.classRow e := rfl
@[simp] theorem Part.coilRoom_after_updChange (p : Part) (l : Link) (f : ChangeSet → ChangeSet) (e : CoilId) : (p.updChange l f).coilRoom e = p.coilRoom e := rfl
@[simp] theorem Part.inner_after_updChange (p : Part) (l : Link) (f : ChangeSet → ChangeSet) (e : DoorId) : (p.updChange l f).inner e = p.inner e := rfl
@[simp] theorem Part.running_after_updChange (p : Part) (l : Link) (f : ChangeSet → ChangeSet) : (p.updChange l f).running = p.running := rfl
@[simp] theorem Part.now_after_updChange (p : Part) (l : Link) (f : ChangeSet → ChangeSet) : (p.updChange l f).now = p.now := rfl
@[simp] theorem Part.pallet_of_after_updChange (p : Part) (l : Link) (f : ChangeSet → ChangeSet) (e : Tag) : (p.updChange l f).pallet? e = p.pallet? e := rfl
@[simp] theorem Part.move_of_after_updChange (p : Part) (l : Link) (f : ChangeSet → ChangeSet) (e : Tag) : (p.updChange l f).move? e = p.move? e := rfl

@[simp] theorem Part.room_after_notify (p : Part) (l : Link) (n : Notice) (e : RoomId) : (p.notify l n).room e = p.room e := rfl
@[simp] theorem Part.door_after_notify (p : Part) (l : Link) (n : Notice) (e : DoorId) : (p.notify l n).door e = p.door e := rfl
@[simp] theorem Part.coil_after_notify (p : Part) (l : Link) (n : Notice) (e : CoilId) : (p.notify l n).coil e = p.coil e := rfl
@[simp] theorem Part.change_after_notify (p : Part) (l : Link) (n : Notice) (e : Link) : (p.notify l n).change e = p.change e := rfl
@[simp] theorem Part.roomSet_after_notify (p : Part) (l : Link) (n : Notice) (e : RoomId) : (p.notify l n).roomSet e = p.roomSet e := rfl
@[simp] theorem Part.doorSet_after_notify (p : Part) (l : Link) (n : Notice) (e : DoorId) : (p.notify l n).doorSet e = p.doorSet e := rfl
@[simp] theorem Part.coilSet_after_notify (p : Part) (l : Link) (n : Notice) (e : CoilId) : (p.notify l n).coilSet e = p.coilSet e := rfl
@[simp] theorem Part.route_after_notify (p : Part) (l : Link) (n : Notice) (e : Kind) : (p.notify l n).route e = p.route e := rfl
@[simp] theorem Part.classRow_after_notify (p : Part) (l : Link) (n : Notice) (e : PClass) : (p.notify l n).classRow e = p.classRow e := rfl
@[simp] theorem Part.coilRoom_after_notify (p : Part) (l : Link) (n : Notice) (e : CoilId) : (p.notify l n).coilRoom e = p.coilRoom e := rfl
@[simp] theorem Part.inner_after_notify (p : Part) (l : Link) (n : Notice) (e : DoorId) : (p.notify l n).inner e = p.inner e := rfl
@[simp] theorem Part.running_after_notify (p : Part) (l : Link) (n : Notice) : (p.notify l n).running = p.running := rfl
@[simp] theorem Part.now_after_notify (p : Part) (l : Link) (n : Notice) : (p.notify l n).now = p.now := rfl
@[simp] theorem Part.pallet_of_after_notify (p : Part) (l : Link) (n : Notice) (e : Tag) : (p.notify l n).pallet? e = p.pallet? e := rfl
@[simp] theorem Part.move_of_after_notify (p : Part) (l : Link) (n : Notice) (e : Tag) : (p.notify l n).move? e = p.move? e := rfl

@[simp] theorem Part.room_after_onChanges (p : Part) (f : ChangeSet → ChangeSet) (e : RoomId) : (p.onChanges f).room e = p.room e := rfl
@[simp] theorem Part.door_after_onChanges (p : Part) (f : ChangeSet → ChangeSet) (e : DoorId) : (p.onChanges f).door e = p.door e := rfl
@[simp] theorem Part.coil_after_onChanges (p : Part) (f : ChangeSet → ChangeSet) (e : CoilId) : (p.onChanges f).coil e = p.coil e := rfl
@[simp] theorem Part.link_after_onChanges (p : Part) (f : ChangeSet → ChangeSet) (e : Link) : (p.onChanges f).link e = p.link e := rfl
@[simp] theorem Part.roomSet_after_onChanges (p : Part) (f : ChangeSet → ChangeSet) (e : RoomId) : (p.onChanges f).roomSet e = p.roomSet e := rfl
@[simp] theorem Part.doorSet_after_onChanges (p : Part) (f : ChangeSet → ChangeSet) (e : DoorId) : (p.onChanges f).doorSet e = p.doorSet e := rfl
@[simp] theorem Part.coilSet_after_onChanges (p : Part) (f : ChangeSet → ChangeSet) (e : CoilId) : (p.onChanges f).coilSet e = p.coilSet e := rfl
@[simp] theorem Part.route_after_onChanges (p : Part) (f : ChangeSet → ChangeSet) (e : Kind) : (p.onChanges f).route e = p.route e := rfl
@[simp] theorem Part.classRow_after_onChanges (p : Part) (f : ChangeSet → ChangeSet) (e : PClass) : (p.onChanges f).classRow e = p.classRow e := rfl
@[simp] theorem Part.coilRoom_after_onChanges (p : Part) (f : ChangeSet → ChangeSet) (e : CoilId) : (p.onChanges f).coilRoom e = p.coilRoom e := rfl
@[simp] theorem Part.inner_after_onChanges (p : Part) (f : ChangeSet → ChangeSet) (e : DoorId) : (p.onChanges f).inner e = p.inner e := rfl
@[simp] theorem Part.running_after_onChanges (p : Part) (f : ChangeSet → ChangeSet) : (p.onChanges f).running = p.running := rfl
@[simp] theorem Part.now_after_onChanges (p : Part) (f : ChangeSet → ChangeSet) : (p.onChanges f).now = p.now := rfl
@[simp] theorem Part.pallet_of_after_onChanges (p : Part) (f : ChangeSet → ChangeSet) (e : Tag) : (p.onChanges f).pallet? e = p.pallet? e := rfl
@[simp] theorem Part.move_of_after_onChanges (p : Part) (f : ChangeSet → ChangeSet) (e : Tag) : (p.onChanges f).move? e = p.move? e := rfl

@[simp] theorem Part.room_after_updPallet (p : Part) (t : Tag) (f : Pallet → Pallet) (e : RoomId) : (p.updPallet t f).room e = p.room e := rfl
@[simp] theorem Part.door_after_updPallet (p : Part) (t : Tag) (f : Pallet → Pallet) (e : DoorId) : (p.updPallet t f).door e = p.door e := rfl
@[simp] theorem Part.coil_after_updPallet (p : Part) (t : Tag) (f : Pallet → Pallet) (e : CoilId) : (p.updPallet t f).coil e = p.coil e := rfl
@[simp] theorem Part.link_after_updPallet (p : Part) (t : Tag) (f : Pallet → Pallet) (e : Link) : (p.updPallet t f).link e = p.link e := rfl
@[simp] theorem Part.change_after_updPallet (p : Part) (t : Tag) (f : Pallet → Pallet) (e : Link) : (p.updPallet t f).change e = p.change e := rfl
@[simp] theorem Part.roomSet_after_updPallet (p : Part) (t : Tag) (f : Pallet → Pallet) (e : RoomId) : (p.updPallet t f).roomSet e = p.roomSet e := rfl
@[simp] theorem Part.doorSet_after_updPallet (p : Part) (t : Tag) (f : Pallet → Pallet) (e : DoorId) : (p.updPallet t f).doorSet e = p.doorSet e := rfl
@[simp] theorem Part.coilSet_after_updPallet (p : Part) (t : Tag) (f : Pallet → Pallet) (e : CoilId) : (p.updPallet t f).coilSet e = p.coilSet e := rfl
@[simp] theorem Part.route_after_updPallet (p : Part) (t : Tag) (f : Pallet → Pallet) (e : Kind) : (p.updPallet t f).route e = p.route e := rfl
@[simp] theorem Part.classRow_after_updPallet (p : Part) (t : Tag) (f : Pallet → Pallet) (e : PClass) : (p.updPallet t f).classRow e = p.classRow e := rfl
@[simp] theorem Part.coilRoom_after_updPallet (p : Part) (t : Tag) (f : Pallet → Pallet) (e : CoilId) : (p.updPallet t f).coilRoom e = p.coilRoom e := rfl
@[simp] theorem Part.inner_after_updPallet (p : Part) (t : Tag) (f : Pallet → Pallet) (e : DoorId) : (p.updPallet t f).inner e = p.inner e := rfl
@[simp] theorem Part.running_after_updPallet (p : Part) (t : Tag) (f : Pallet → Pallet) : (p.updPallet t f).running = p.running := rfl
@[simp] theorem Part.now_after_updPallet (p : Part) (t : Tag) (f : Pallet → Pallet) : (p.updPallet t f).now = p.now := rfl
@[simp] theorem Part.move_of_after_updPallet (p : Part) (t : Tag) (f : Pallet → Pallet) (e : Tag) : (p.updPallet t f).move? e = p.move? e := rfl

@[simp] theorem Part.room_after_updMove (p : Part) (t : Tag) (f : Move → Move) (e : RoomId) : (p.updMove t f).room e = p.room e := rfl
@[simp] theorem Part.door_after_updMove (p : Part) (t : Tag) (f : Move → Move) (e : DoorId) : (p.updMove t f).door e = p.door e := rfl
@[simp] theorem Part.coil_after_updMove (p : Part) (t : Tag) (f : Move → Move) (e : CoilId) : (p.updMove t f).coil e = p.coil e := rfl
@[simp] theorem Part.link_after_updMove (p : Part) (t : Tag) (f : Move → Move) (e : Link) : (p.updMove t f).link e = p.link e := rfl
@[simp] theorem Part.change_after_updMove (p : Part) (t : Tag) (f : Move → Move) (e : Link) : (p.updMove t f).change e = p.change e := rfl
@[simp] theorem Part.roomSet_after_updMove (p : Part) (t : Tag) (f : Move → Move) (e : RoomId) : (p.updMove t f).roomSet e = p.roomSet e := rfl
@[simp] theorem Part.doorSet_after_updMove (p : Part) (t : Tag) (f : Move → Move) (e : DoorId) : (p.updMove t f).doorSet e = p.doorSet e := rfl
@[simp] theorem Part.coilSet_after_updMove (p : Part) (t : Tag) (f : Move → Move) (e : CoilId) : (p.updMove t f).coilSet e = p.coilSet e := rfl
@[simp] theorem Part.route_after_updMove (p : Part) (t : Tag) (f : Move → Move) (e : Kind) : (p.updMove t f).route e = p.route e := rfl
@[simp] theorem Part.classRow_after_updMove (p : Part) (t : Tag) (f : Move → Move) (e : PClass) : (p.updMove t f).classRow e = p.classRow e := rfl
@[simp] theorem Part.coilRoom_after_updMove (p : Part) (t : Tag) (f : Move → Move) (e : CoilId) : (p.updMove t f).coilRoom e = p.coilRoom e := rfl
@[simp] theorem Part.inner_after_updMove (p : Part) (t : Tag) (f : Move → Move) (e : DoorId) : (p.updMove t f).inner e = p.inner e := rfl
@[simp] theorem Part.running_after_updMove (p : Part) (t : Tag) (f : Move → Move) : (p.updMove t f).running = p.running := rfl
@[simp] theorem Part.now_after_updMove (p : Part) (t : Tag) (f : Move → Move) : (p.updMove t f).now = p.now := rfl
@[simp] theorem Part.pallet_of_after_updMove (p : Part) (t : Tag) (f : Move → Move) (e : Tag) : (p.updMove t f).pallet? e = p.pallet? e := rfl

@[simp] theorem Part.room_after_dropMove (p : Part) (t : Tag) (e : RoomId) : (p.dropMove t).room e = p.room e := rfl
@[simp] theorem Part.door_after_dropMove (p : Part) (t : Tag) (e : DoorId) : (p.dropMove t).door e = p.door e := rfl
@[simp] theorem Part.coil_after_dropMove (p : Part) (t : Tag) (e : CoilId) : (p.dropMove t).coil e = p.coil e := rfl
@[simp] theorem Part.link_after_dropMove (p : Part) (t : Tag) (e : Link) : (p.dropMove t).link e = p.link e := rfl
@[simp] theorem Part.change_after_dropMove (p : Part) (t : Tag) (e : Link) : (p.dropMove t).change e = p.change e := rfl
@[simp] theorem Part.roomSet_after_dropMove (p : Part) (t : Tag) (e : RoomId) : (p.dropMove t).roomSet e = p.roomSet e := rfl
@[simp] theorem Part.doorSet_after_dropMove (p : Part) (t : Tag) (e : DoorId) : (p.dropMove t).doorSet e = p.doorSet e := rfl
@[simp] theorem Part.coilSet_after_dropMove (p : Part) (t : Tag) (e : CoilId) : (p.dropMove t).coilSet e = p.coilSet e := rfl
@[simp] theorem Part.route_after_dropMove (p : Part) (t : Tag) (e : Kind) : (p.dropMove t).route e = p.route e := rfl
@[simp] theorem Part.classRow_after_dropMove (p : Part) (t : Tag) (e : PClass) : (p.dropMove t).classRow e = p.classRow e := rfl
@[simp] theorem Part.coilRoom_after_dropMove (p : Part) (t : Tag) (e : CoilId) : (p.dropMove t).coilRoom e = p.coilRoom e := rfl
@[simp] theorem Part.inner_after_dropMove (p : Part) (t : Tag) (e : DoorId) : (p.dropMove t).inner e = p.inner e := rfl
@[simp] theorem Part.running_after_dropMove (p : Part) (t : Tag) : (p.dropMove t).running = p.running := rfl
@[simp] theorem Part.now_after_dropMove (p : Part) (t : Tag) : (p.dropMove t).now = p.now := rfl
@[simp] theorem Part.pallet_of_after_dropMove (p : Part) (t : Tag) (e : Tag) : (p.dropMove t).pallet? e = p.pallet? e := rfl

@[simp] theorem Part.room_after_updAlarm (p : Part) (k : Kind) (o : Nat) (f : Alarm → Alarm) (e : RoomId) : (p.updAlarm k o f).room e = p.room e := rfl
@[simp] theorem Part.door_after_updAlarm (p : Part) (k : Kind) (o : Nat) (f : Alarm → Alarm) (e : DoorId) : (p.updAlarm k o f).door e = p.door e := rfl
@[simp] theorem Part.coil_after_updAlarm (p : Part) (k : Kind) (o : Nat) (f : Alarm → Alarm) (e : CoilId) : (p.updAlarm k o f).coil e = p.coil e := rfl
@[simp] theorem Part.link_after_updAlarm (p : Part) (k : Kind) (o : Nat) (f : Alarm → Alarm) (e : Link) : (p.updAlarm k o f).link e = p.link e := rfl
@[simp] theorem Part.change_after_updAlarm (p : Part) (k : Kind) (o : Nat) (f : Alarm → Alarm) (e : Link) : (p.updAlarm k o f).change e = p.change e := rfl
@[simp] theorem Part.roomSet_after_updAlarm (p : Part) (k : Kind) (o : Nat) (f : Alarm → Alarm) (e : RoomId) : (p.updAlarm k o f).roomSet e = p.roomSet e := rfl
@[simp] theorem Part.doorSet_after_updAlarm (p : Part) (k : Kind) (o : Nat) (f : Alarm → Alarm) (e : DoorId) : (p.updAlarm k o f).doorSet e = p.doorSet e := rfl
@[simp] theorem Part.coilSet_after_updAlarm (p : Part) (k : Kind) (o : Nat) (f : Alarm → Alarm) (e : CoilId) : (p.updAlarm k o f).coilSet e = p.coilSet e := rfl
@[simp] theorem Part.route_after_updAlarm (p : Part) (k : Kind) (o : Nat) (f : Alarm → Alarm) (e : Kind) : (p.updAlarm k o f).route e = p.route e := rfl
@[simp] theorem Part.classRow_after_updAlarm (p : Part) (k : Kind) (o : Nat) (f : Alarm → Alarm) (e : PClass) : (p.updAlarm k o f).classRow e = p.classRow e := rfl
@[simp] theorem Part.coilRoom_after_updAlarm (p : Part) (k : Kind) (o : Nat) (f : Alarm → Alarm) (e : CoilId) : (p.updAlarm k o f).coilRoom e = p.coilRoom e := rfl
@[simp] theorem Part.inner_after_updAlarm (p : Part) (k : Kind) (o : Nat) (f : Alarm → Alarm) (e : DoorId) : (p.updAlarm k o f).inner e = p.inner e := rfl
@[simp] theorem Part.running_after_updAlarm (p : Part) (k : Kind) (o : Nat) (f : Alarm → Alarm) : (p.updAlarm k o f).running = p.running := rfl
@[simp] theorem Part.now_after_updAlarm (p : Part) (k : Kind) (o : Nat) (f : Alarm → Alarm) : (p.updAlarm k o f).now = p.now := rfl
@[simp] theorem Part.pallet_of_after_updAlarm (p : Part) (k : Kind) (o : Nat) (f : Alarm → Alarm) (e : Tag) : (p.updAlarm k o f).pallet? e = p.pallet? e := rfl
@[simp] theorem Part.move_of_after_updAlarm (p : Part) (k : Kind) (o : Nat) (f : Alarm → Alarm) (e : Tag) : (p.updAlarm k o f).move? e = p.move? e := rfl

@[simp] theorem Part.room_after_dropAlarm (p : Part) (k : Kind) (o : Nat) (e : RoomId) : (p.dropAlarm k o).room e = p.room e := rfl
@[simp] theorem Part.door_after_dropAlarm (p : Part) (k : Kind) (o : Nat) (e : DoorId) : (p.dropAlarm k o).door e = p.door e := rfl
@[simp] theorem Part.coil_after_dropAlarm (p : Part) (k : Kind) (o : Nat) (e : CoilId) : (p.dropAlarm k o).coil e = p.coil e := rfl
@[simp] theorem Part.link_after_dropAlarm (p : Part) (k : Kind) (o : Nat) (e : Link) : (p.dropAlarm k o).link e = p.link e := rfl
@[simp] theorem Part.change_after_dropAlarm (p : Part) (k : Kind) (o : Nat) (e : Link) : (p.dropAlarm k o).change e = p.change e := rfl
@[simp] theorem Part.roomSet_after_dropAlarm (p : Part) (k : Kind) (o : Nat) (e : RoomId) : (p.dropAlarm k o).roomSet e = p.roomSet e := rfl
@[simp] theorem Part.doorSet_after_dropAlarm (p : Part) (k : Kind) (o : Nat) (e : DoorId) : (p.dropAlarm k o).doorSet e = p.doorSet e := rfl
@[simp] theorem Part.coilSet_after_dropAlarm (p : Part) (k : Kind) (o : Nat) (e : CoilId) : (p.dropAlarm k o).coilSet e = p.coilSet e := rfl
@[simp] theorem Part.route_after_dropAlarm (p : Part) (k : Kind) (o : Nat) (e : Kind) : (p.dropAlarm k o).route e = p.route e := rfl
@[simp] theorem Part.classRow_after_dropAlarm (p : Part) (k : Kind) (o : Nat) (e : PClass) : (p.dropAlarm k o).classRow e = p.classRow e := rfl
@[simp] theorem Part.coilRoom_after_dropAlarm (p : Part) (k : Kind) (o : Nat) (e : CoilId) : (p.dropAlarm k o).coilRoom e = p.coilRoom e := rfl
@[simp] theorem Part.inner_after_dropAlarm (p : Part) (k : Kind) (o : Nat) (e : DoorId) : (p.dropAlarm k o).inner e = p.inner e := rfl
@[simp] theorem Part.running_after_dropAlarm (p : Part) (k : Kind) (o : Nat) : (p.dropAlarm k o).running = p.running := rfl
@[simp] theorem Part.now_after_dropAlarm (p : Part) (k : Kind) (o : Nat) : (p.dropAlarm k o).now = p.now := rfl
@[simp] theorem Part.pallet_of_after_dropAlarm (p : Part) (k : Kind) (o : Nat) (e : Tag) : (p.dropAlarm k o).pallet? e = p.pallet? e := rfl
@[simp] theorem Part.move_of_after_dropAlarm (p : Part) (k : Kind) (o : Nat) (e : Tag) : (p.dropAlarm k o).move? e = p.move? e := rfl

@[simp] theorem Part.room_after_settle (p : Part) (k : Kind) (o : Nat) (e : RoomId) : (p.settle k o).room e = p.room e := rfl
@[simp] theorem Part.door_after_settle (p : Part) (k : Kind) (o : Nat) (e : DoorId) : (p.settle k o).door e = p.door e := rfl
@[simp] theorem Part.coil_after_settle (p : Part) (k : Kind) (o : Nat) (e : CoilId) : (p.settle k o).coil e = p.coil e := rfl
@[simp] theorem Part.link_after_settle (p : Part) (k : Kind) (o : Nat) (e : Link) : (p.settle k o).link e = p.link e := rfl
@[simp] theorem Part.change_after_settle (p : Part) (k : Kind) (o : Nat) (e : Link) : (p.settle k o).change e = p.change e := rfl
@[simp] theorem Part.roomSet_after_settle (p : Part) (k : Kind) (o : Nat) (e : RoomId) : (p.settle k o).roomSet e = p.roomSet e := rfl
@[simp] theorem Part.doorSet_after_settle (p : Part) (k : Kind) (o : Nat) (e : DoorId) : (p.settle k o).doorSet e = p.doorSet e := rfl
@[simp] theorem Part.coilSet_after_settle (p : Part) (k : Kind) (o : Nat) (e : CoilId) : (p.settle k o).coilSet e = p.coilSet e := rfl
@[simp] theorem Part.route_after_settle (p : Part) (k : Kind) (o : Nat) (e : Kind) : (p.settle k o).route e = p.route e := rfl
@[simp] theorem Part.classRow_after_settle (p : Part) (k : Kind) (o : Nat) (e : PClass) : (p.settle k o).classRow e = p.classRow e := rfl
@[simp] theorem Part.coilRoom_after_settle (p : Part) (k : Kind) (o : Nat) (e : CoilId) : (p.settle k o).coilRoom e = p.coilRoom e := rfl
@[simp] theorem Part.inner_after_settle (p : Part) (k : Kind) (o : Nat) (e : DoorId) : (p.settle k o).inner e = p.inner e := rfl
@[simp] theorem Part.running_after_settle (p : Part) (k : Kind) (o : Nat) : (p.settle k o).running = p.running := rfl
@[simp] theorem Part.now_after_settle (p : Part) (k : Kind) (o : Nat) : (p.settle k o).now = p.now := rfl
@[simp] theorem Part.pallet_of_after_settle (p : Part) (k : Kind) (o : Nat) (e : Tag) : (p.settle k o).pallet? e = p.pallet? e := rfl
@[simp] theorem Part.move_of_after_settle (p : Part) (k : Kind) (o : Nat) (e : Tag) : (p.settle k o).move? e = p.move? e := rfl

@[simp] theorem Part.room_after_unsettle (p : Part) (k : Kind) (o : Nat) (e : RoomId) : (p.unsettle k o).room e = p.room e := rfl
@[simp] theorem Part.door_after_unsettle (p : Part) (k : Kind) (o : Nat) (e : DoorId) : (p.unsettle k o).door e = p.door e := rfl
@[simp] theorem Part.coil_after_unsettle (p : Part) (k : Kind) (o : Nat) (e : CoilId) : (p.unsettle k o).coil e = p.coil e := rfl
@[simp] theorem Part.link_after_unsettle (p : Part) (k : Kind) (o : Nat) (e : Link) : (p.unsettle k o).link e = p.link e := rfl
@[simp] theorem Part.change_after_unsettle (p : Part) (k : Kind) (o : Nat) (e : Link) : (p.unsettle k o).change e = p.change e := rfl
@[simp] theorem Part.roomSet_after_unsettle (p : Part) (k : Kind) (o : Nat) (e : RoomId) : (p.unsettle k o).roomSet e = p.roomSet e := rfl
@[simp] theorem Part.doorSet_after_unsettle (p : Part) (k : Kind) (o : Nat) (e : DoorId) : (p.unsettle k o).doorSet e = p.doorSet e := rfl
@[simp] theorem Part.coilSet_after_unsettle (p : Part) (k : Kind) (o : Nat) (e : CoilId) : (p.unsettle k o).coilSet e = p.coilSet e := rfl
@[simp] theorem Part.route_after_unsettle (p : Part) (k : Kind) (o : Nat) (e : Kind) : (p.unsettle k o).route e = p.route e := rfl
@[simp] theorem Part.classRow_after_unsettle (p : Part) (k : Kind) (o : Nat) (e : PClass) : (p.unsettle k o).classRow e = p.classRow e := rfl
@[simp] theorem Part.coilRoom_after_unsettle (p : Part) (k : Kind) (o : Nat) (e : CoilId) : (p.unsettle k o).coilRoom e = p.coilRoom e := rfl
@[simp] theorem Part.inner_after_unsettle (p : Part) (k : Kind) (o : Nat) (e : DoorId) : (p.unsettle k o).inner e = p.inner e := rfl
@[simp] theorem Part.running_after_unsettle (p : Part) (k : Kind) (o : Nat) : (p.unsettle k o).running = p.running := rfl
@[simp] theorem Part.now_after_unsettle (p : Part) (k : Kind) (o : Nat) : (p.unsettle k o).now = p.now := rfl
@[simp] theorem Part.pallet_of_after_unsettle (p : Part) (k : Kind) (o : Nat) (e : Tag) : (p.unsettle k o).pallet? e = p.pallet? e := rfl
@[simp] theorem Part.move_of_after_unsettle (p : Part) (k : Kind) (o : Nat) (e : Tag) : (p.unsettle k o).move? e = p.move? e := rfl

@[simp] theorem Part.room_after_startSending (p : Part) (e : RoomId) : (p.startSending).room e = p.room e := rfl
@[simp] theorem Part.door_after_startSending (p : Part) (e : DoorId) : (p.startSending).door e = p.door e := rfl
@[simp] theorem Part.coil_after_startSending (p : Part) (e : CoilId) : (p.startSending).coil e = p.coil e := rfl
@[simp] theorem Part.change_after_startSending (p : Part) (e : Link) : (p.startSending).change e = p.change e := rfl
@[simp] theorem Part.roomSet_after_startSending (p : Part) (e : RoomId) : (p.startSending).roomSet e = p.roomSet e := rfl
@[simp] theorem Part.doorSet_after_startSending (p : Part) (e : DoorId) : (p.startSending).doorSet e = p.doorSet e := rfl
@[simp] theorem Part.coilSet_after_startSending (p : Part) (e : CoilId) : (p.startSending).coilSet e = p.coilSet e := rfl
@[simp] theorem Part.route_after_startSending (p : Part) (e : Kind) : (p.startSending).route e = p.route e := rfl
@[simp] theorem Part.classRow_after_startSending (p : Part) (e : PClass) : (p.startSending).classRow e = p.classRow e := rfl
@[simp] theorem Part.coilRoom_after_startSending (p : Part) (e : CoilId) : (p.startSending).coilRoom e = p.coilRoom e := rfl
@[simp] theorem Part.inner_after_startSending (p : Part) (e : DoorId) : (p.startSending).inner e = p.inner e := rfl
@[simp] theorem Part.running_after_startSending (p : Part)  : (p.startSending).running = p.running := rfl
@[simp] theorem Part.now_after_startSending (p : Part)  : (p.startSending).now = p.now := rfl
@[simp] theorem Part.pallet_of_after_startSending (p : Part) (e : Tag) : (p.startSending).pallet? e = p.pallet? e := rfl
@[simp] theorem Part.move_of_after_startSending (p : Part) (e : Tag) : (p.startSending).move? e = p.move? e := rfl

end Sys2Proof.Machine
end

