-- ==== Sys2Proof/Laws/Work.lean ====
section
/-! SUPPORT. What a follow-on can do, said once: `Work n p q` says that q comes from p by the changes the follow-ons are
made of. At every level n they are the changes of the release pass: reservations, lanes and close orders, moves, live
moves, alarms, notices. From level 1 on they are also those of the grant pass and of a hold re-evaluated: door states
and openings, door queues and counts, holds, change sets. From level 2 on they are also those of the coils and the
arbiter's pass. Every pass, raising, recall and abort is such work. -/

namespace Sys2Proof.Machine

/-- Repeat counts are in their range (R145). -/
def Part.RepeatsInRange (p : Part) : Prop := ∀ a ∈ p.alarms, 1 ≤ a.repeats ∧ a.repeats ≤ Config.countMax

/-- What the follow-ons of a taking do to the part, by level. -/
inductive Work (n : Nat) : Part → Part → Prop
  | refl (p : Part) : Work n p p
  | reserve {p q : Part} (h : Work n p q) (r : RoomId) (f : Room → Room)
      (k : ∀ x, { f x with reservations := 0 } = { x with reservations := 0 }) : Work n p (q.updRoom r f)
  | lane {p q : Part} (h : Work n p q) (d : DoorId) (f : Door → Door)
      (k : ∀ x, { f x with owed := none, sent := false, lane := none } =
        { x with owed := none, sent := false, lane := none }) : Work n p (q.updDoor d f)
  | moves {p q : Part} (h : Work n p q) (ms : List Move) (k : (ms.map (·.tag)).Sublist (q.moves.map (·.tag))) :
      Work n p { q with moves := ms }
  | trucks {p q : Part} (h : Work n p q) (x : Nat) : Work n p { q with trucks := x }
  | run {p q : Part} (h : Work n p q) (x : DirectionRun) : Work n p { q with dirRun := x }
  | pallet {p q : Part} (h : Work n p q) (t : Tag) (f : Pallet → Pallet) (k : ∀ x, (f x).facts = x.facts) :
      Work n p (q.updPallet t f)
  | entry {p q : Part} (h : Work n p q) (k : Kind) (o : Nat) (f : Alarm → Alarm)
      (same : ∀ a, a.isOf k o = true → (f a).kind = a.kind ∧ (f a).object = a.object)
      (range : q.RepeatsInRange → ∀ a ∈ q.alarms, a.isOf k o = true →
        1 ≤ (f a).repeats ∧ (f a).repeats ≤ Config.countMax) : Work n p (q.updAlarm k o f)
  | made {p q : Part} (h : Work n p q) (a : Alarm) (room : q.listFull = false)
      (fresh : q.alarm? a.kind a.object = none) (one : a.repeats = 1) : Work n p { q with alarms := q.alarms ++ [a] }
  | settled {p q : Part} (h : Work n p q) (x : List (Kind × Nat)) : Work n p { q with settled := x }
  | notice {p q : Part} (h : Work n p q) (l : Link) (x : Notice) : Work n p (q.notify l x)
  | room {p q : Part} (lv : 1 ≤ n) (h : Work n p q) (r : RoomId) (f : Room → Room) (k : ∀ x, (f x).facts = x.facts) :
      Work n p (q.updRoom r f)
  | door {p q : Part} (lv : 1 ≤ n) (h : Work n p q) (d : DoorId) (f : Door → Door) (k : ∀ x, (f x).facts = x.facts) :
      Work n p (q.updDoor d f)
  | marks {p q : Part} (lv : 1 ≤ n) (h : Work n p q) (v : Vector ChangeSet 3) : Work n p { q with changes := v }
  | coil {p q : Part} (lv : 2 ≤ n) (h : Work n p q) (c : CoilId) (f : Coil → Coil) : Work n p (q.updCoil c f)
  | timing {p q : Part} (lv : 2 ≤ n) (h : Work n p q) (c : CoilId) (x : CoilSettings)
      (k : x.facts = (q.coilSet c).facts) : Work n p (q.setCoilSet c x)
  | due {p q : Part} (lv : 2 ≤ n) (h : Work n p q) (l : List CoilId) : Work n p { q with due := l }

variable {n : Nat}

/-- Work after work is work. -/
theorem Work.trans {p q r : Part} (h : Work n p q) (k : Work n q r) : Work n p r := by
  induction k with
  | refl => exact h
  | reserve _ r f k ih => exact ih.reserve r f k
  | lane _ d f k ih => exact ih.lane d f k
  | moves _ ms k ih => exact ih.moves ms k
  | trucks _ x ih => exact ih.trucks x
  | run _ x ih => exact ih.run x
  | pallet _ t f k ih => exact ih.pallet t f k
  | entry _ k o f same range ih => exact ih.entry k o f same range
  | made _ a room fresh one ih => exact ih.made a room fresh one
  | settled _ x ih => exact ih.settled x
  | notice _ l x ih => exact ih.notice l x
  | room lv _ r f k ih => exact ih.room lv r f k
  | door lv _ d f k ih => exact ih.door lv d f k
  | marks lv _ v ih => exact ih.marks lv v
  | coil lv _ c f ih => exact ih.coil lv c f
  | timing lv _ c x k ih => exact ih.timing lv c x k
  | due lv _ l ih => exact ih.due lv l

/-- A fold of work over a list is work. -/
theorem Work.foldl {α : Type} {f : Part → α → Part} (k : ∀ p a, Work n p (f p a)) (xs : List α) (p : Part) :
    Work n p (xs.foldl f p) := by
  induction xs generalizing p with
  | nil => exact .refl p
  | cons a rest ih => exact (k p a).trans (ih (f p a))

/-! ### Notices, change sets and alarms -/

theorem work_onChanges (lv : 1 ≤ n) (p : Part) (f : ChangeSet → ChangeSet) : Work n p (p.onChanges f) :=
  Work.marks lv (.refl p) _

theorem work_markDoor (lv : 1 ≤ n) (p : Part) (d : DoorId) : Work n p (p.markDoor d) := work_onChanges lv p _
theorem work_markRoom (lv : 1 ≤ n) (p : Part) (r : RoomId) : Work n p (p.markRoom r) := work_onChanges lv p _
theorem work_markCoil (lv : 1 ≤ n) (p : Part) (c : CoilId) : Work n p (p.markCoil c) := work_onChanges lv p _

theorem work_sendAlarm (p : Part) (a : Alarm) : Work n p (p.sendAlarm a) :=
  Work.foldl (fun q l => by
    show Work n q (if _ then _ else _)
    split
    · exact .notice (.refl q) _ _
    · exact .refl q) _ p

/-- An entry of the list for a kind and object: none, or one that stands in the list. -/
theorem alarm_of_mem {p : Part} {k : Kind} {o : Nat} {a : Alarm} (h : p.alarm? k o = some a) :
    a ∈ p.alarms ∧ a.kind = k ∧ a.object = o := by
  refine ⟨List.mem_of_find?_eq_some h, ?_⟩
  have := List.find?_some h
  simpa [Alarm.isOf] using this

theorem work_makeAlarm (p : Part) (k : Kind) (o : Nat) (c : Option Bool) (room : p.listFull = false)
    (fresh : p.alarm? k o = none) : Work n p (p.makeAlarm k o c) :=
  (Work.made (.refl p) { kind := k, object := o, stamp := p.now, repeats := 1, cond := c } room fresh rfl).trans
    (work_sendAlarm _ _)

theorem satSucc_range {k : Nat} (h : k ≤ Config.countMax) :
    1 ≤ satSucc Config.countMax k ∧ satSucc Config.countMax k ≤ Config.countMax := by
  simp only [satSucc, Config.countMax] at *
  by_cases g : 255 ≤ k <;> simp [g] <;> omega

theorem work_repeatAlarm (p : Part) (a : Alarm) (mem : a ∈ p.alarms) : Work n p (p.repeatAlarm a) := by
  refine Work.trans (Work.entry (.refl p) a.kind a.object _ ?_ ?_) (work_sendAlarm _ _)
  · intro b hb
    simp only [Alarm.isOf, Bool.and_eq_true, beq_iff_eq] at hb
    exact ⟨hb.1.symm, hb.2.symm⟩
  · intro hr b _ _
    exact satSucc_range (hr a mem).2

theorem work_raiseEdge (p : Part) (k : Kind) (o : Nat) : Work n p (p.raiseEdge k o) := by
  unfold Part.raiseEdge
  split
  · exact .refl p
  · split
    · rename_i a h
      exact work_repeatAlarm p a (alarm_of_mem h).1
    · rename_i h
      split
      · exact .refl p
      · rename_i full
        exact work_makeAlarm p k o none (by simpa using full) h

theorem work_setCond (p : Part) (k : Kind) (o : Nat) (c : Option Bool) :
    Work n p (p.updAlarm k o (fun a => { a with cond := c })) :=
  Work.entry (.refl p) k o _ (fun _ _ => ⟨rfl, rfl⟩) (fun hr a ha _ => hr a ha)

theorem work_levelTrue (p : Part) (k : Kind) (o : Nat) : Work n p (p.levelTrue k o) := by
  unfold Part.levelTrue
  split
  · exact work_setCond p k o _
  · rename_i h
    split
    · exact .refl p
    · rename_i full
      simp only [Bool.or_eq_true, not_or, Bool.not_eq_true] at full
      exact work_makeAlarm p k o _ full.2 h

theorem work_levelFalse (p : Part) (k : Kind) (o : Nat) : Work n p (p.levelFalse k o) :=
  Work.settled (work_setCond p k o _) _

theorem work_handLevel (p : Part) (k : Kind) (o : Nat) (b : Bool) : Work n p (p.handLevel k o b) := by
  unfold Part.handLevel
  split
  · exact work_levelTrue p k o
  · exact work_levelFalse p k o

theorem work_examine (p : Part) (k : Kind) (o : Nat) : Work n p (p.examine k o) := work_handLevel p k o _

theorem work_examineCoil (p : Part) (c : CoilId) : Work n p (p.examineCoil c) :=
  (work_examine p _ _).trans (work_examine _ _ _)

theorem work_examineMove (p : Part) (t : Tag) : Work n p (p.examineMove t) :=
  (work_examine p _ _).trans (work_examine _ _ _)

theorem work_reexamineOne (p : Part) (k : Kind) (o : Nat) : Work n p (p.reexamineOne k o) := by
  unfold Part.reexamineOne
  split
  · rename_i h
    simp only [Bool.and_eq_true, Option.isNone_iff_eq_none, Bool.not_eq_true'] at h
    exact work_makeAlarm p k o _ h.2 h.1.1.2
  · exact .refl p

theorem work_reexamineKind (p : Part) (k : Kind) : Work n p (p.reexamineKind k) := by
  unfold Part.reexamineKind
  split
  · exact Work.foldl (fun q o => work_reexamineOne q k o) _ p
  · exact .refl p

theorem work_reexamineAll (p : Part) : Work n p p.reexamineAll := Work.foldl work_reexamineKind _ p

/-! ### Lanes, reservations and close orders -/

theorem work_sendCloseOrder (p : Part) (d : DoorId) : Work n p (p.sendCloseOrder d) := by
  unfold Part.sendCloseOrder
  split
  · refine Work.notice (Work.lane (.refl p) d _ ?_) _ _
    intro _
    rfl
  · exact .refl p

theorem work_owe (p : Part) (r : CloseReason) (d : DoorId) : Work n p (p.owe r d) := by
  unfold Part.owe
  split
  · refine Work.trans (Work.lane (.refl p) d _ ?_) (work_sendCloseOrder _ _)
    intro _
    rfl
  · exact .refl p

theorem work_freeLane (p : Part) (d : DoorId) : Work n p (p.freeLane d) := by
  unfold Part.freeLane
  refine Work.trans (Work.lane (.refl p) d _ ?_) (work_sendCloseOrder _ _)
  intro _
  rfl

theorem work_takeLane (p : Part) (t : Tag) (d : DoorId) : Work n p (p.takeLane t d) := by
  unfold Part.takeLane
  refine Work.lane (.refl p) d _ ?_
  intro _
  rfl

theorem work_addReservation (p : Part) (r : Option RoomId) : Work n p (p.addReservation r) := by
  unfold Part.addReservation
  split
  · rename_i r
    refine Work.reserve (.refl p) r _ ?_
    intro _
    rfl
  · exact .refl p

theorem work_endReservation (p : Part) (r : Option RoomId) : Work n p (p.endReservation r) := by
  unfold Part.endReservation
  split
  · rename_i r
    refine Work.reserve (.refl p) r _ ?_
    intro _
    rfl
  · exact .refl p

/-! ### Moves and the release pass -/

/-- A change of a move record that keeps its tag keeps the tags of the queue. -/
theorem tags_updMove (p : Part) (t : Tag) (f : Move → Move) (k : ∀ m, m.tag = t → (f m).tag = t) :
    (p.updMove t f).moves.map (·.tag) = p.moves.map (·.tag) := by
  simp only [Part.updMove, List.map_map]
  apply List.map_congr_left
  intro m _
  simp only [Function.comp]
  split
  · rename_i h
    rw [beq_iff_eq] at h
    rw [k m h, h]
  · rfl

theorem work_updMove (p : Part) (t : Tag) (f : Move → Move) (k : ∀ m, m.tag = t → (f m).tag = t) :
    Work n p (p.updMove t f) :=
  Work.moves (.refl p) _ (by
    have := tags_updMove p t f k
    simp only [Part.updMove] at this
    rw [this])

theorem work_dropMove (p : Part) (t : Tag) : Work n p (p.dropMove t) :=
  Work.moves (.refl p) _ (List.Sublist.map _ List.filter_sublist)

theorem work_release (p : Part) (m : Move) : Work n p (p.release m) := by
  unfold Part.release
  dsimp only
  refine Work.trans (Work.notice (Work.trucks (Work.trans (Work.trans (work_updMove p m.tag _ ?_)
    (Work.foldl (fun q d => work_takeLane q m.tag d) m.laneDoors _)) (work_addReservation _ m.dest.room?)) _) _ _)
    (work_examineMove _ _)
  exact fun _ h => h

theorem work_releaseChosen (p : Part) (m : Move) : Work n p (p.releaseChosen m) := .run (work_release p m) _

theorem work_releaseLoop (skip : List Tag) (k : Nat) (p : Part) : Work n p (releaseLoop skip k p) := by
  induction k generalizing p with
  | zero => exact .refl p
  | succ k ih =>
    unfold releaseLoop
    split
    · exact (work_releaseChosen p _).trans (ih _)
    · exact .refl p

theorem work_releasePassBut (p : Part) (skip : List Tag) : Work n p (p.releasePassBut skip) := by
  unfold Part.releasePassBut
  split
  · exact work_releaseLoop skip _ p
  · exact .refl p

theorem work_releasePass (p : Part) : Work n p p.releasePass := work_releasePassBut p []

/-! ### Doors and the grant pass -/

theorem work_changeDoor (lv : 1 ≤ n) (p : Part) (d : DoorId) (st : DoorState) : Work n p (p.changeDoor d st) := by
  unfold Part.changeDoor
  split
  · exact .refl p
  · have w := (Work.door lv (.refl p) d (fun x => { x with state := st }) fun _ => rfl).trans (work_markDoor lv _ d)
    dsimp only
    split
    · exact w.trans (work_levelTrue _ _ _)
    · split
      · exact w.trans (work_levelFalse _ _ _)
      · exact w

theorem work_holdNotice (p : Part) (d : DoorId) : Work n p (p.holdNotice d) := by
  unfold Part.holdNotice
  split
  · exact .notice (.refl p) _ _
  · exact .refl p

theorem work_resumeNotice (p : Part) (d : DoorId) : Work n p (p.resumeNotice d) := by
  unfold Part.resumeNotice
  split
  · exact .notice (.refl p) _ _
  · exact .refl p

theorem work_enterBreach (lv : 1 ≤ n) (p : Part) (d : DoorId) (c : Cause) : Work n p (p.enterBreach d c) := by
  unfold Part.enterBreach
  refine Work.trans (Work.trans (Work.door lv (.refl p) d _ ?_) (work_holdNotice _ d)) (work_changeDoor lv _ d _)
  intro _
  rfl

theorem work_returnOpen (lv : 1 ≤ n) (p : Part) (d : DoorId) : Work n p (p.returnOpen d) := by
  unfold Part.returnOpen
  refine Work.trans ?_ (work_releasePass _)
  refine Work.trans (Work.trans (Work.door lv (.refl p) d _ ?_) (work_changeDoor lv _ d _)) (work_resumeNotice _ d)
  intro _
  rfl

theorem work_takeRest (lv : 1 ≤ n) (p : Part) (d : DoorId) : Work n p (p.takeRest d) := by
  unfold Part.takeRest
  split
  · exact (work_changeDoor lv p d _).trans (work_releasePass _)
  · exact .refl p

theorem work_grant (lv : 1 ≤ n) (p : Part) (r : RoomId) (d : DoorId) (rest : List DoorId) : Work n p (p.grant r d rest) := by
  unfold Part.grant
  dsimp only
  refine Work.trans ?_ (work_releasePass _)
  refine Work.room lv (Work.notice (Work.door lv (Work.trans (Work.room lv (.refl p) r _ ?_) (work_changeDoor lv _ d .opened))
    d _ ?_) _ _) r _ ?_
  all_goals
    intro _
    rfl

theorem work_grantStep (lv : 1 ≤ n) (p q : Part) (r : RoomId) (h : p.grantStep r = some q) : Work n p q := by
  unfold Part.grantStep at h
  split at h
  · split at h
    · cases h
      exact work_grant lv p r _ _
    · cases h
  · cases h

theorem work_grantLoop (lv : 1 ≤ n) (r : RoomId) (k : Nat) (p : Part) : Work n p (grantLoop r k p) := by
  induction k generalizing p with
  | zero => exact .refl p
  | succ k ih =>
    unfold grantLoop
    split
    · rename_i q h
      exact (work_grantStep lv p q r h).trans (ih q)
    · exact .refl p

theorem work_grantPass (lv : 1 ≤ n) (p : Part) (r : RoomId) : Work n p (p.grantPass r) := by
  unfold Part.grantPass
  split
  · exact work_grantLoop lv r _ p
  · exact .refl p

/-! ### Coils, holds and the arbiter's pass -/

theorem work_setPhase (lv : 2 ≤ n) (p : Part) (c : CoilId) (ph : Phase) (f : Coil → Coil) : Work n p (p.setPhase c ph f) :=
  ((Work.coil lv (.refl p) c _).trans (work_markCoil (by omega) _ c)).trans (work_examineCoil _ c)

theorem work_evalHold (lv : 1 ≤ n) (p : Part) (r : RoomId) : Work n p (p.evalHold r) := by
  unfold Part.evalHold
  split
  · exact .refl p
  · have w := (Work.room lv (.refl p) r (fun x => { x with hold := p.holdWanted r }) fun _ => rfl).trans
      (work_markRoom lv _ r)
    dsimp only
    split
    · exact w
    · exact (w.trans (work_grantPass lv _ r)).trans (work_releasePass _)

theorem work_evalHoldOf (lv : 1 ≤ n) (p : Part) (c : CoilId) : Work n p (p.evalHoldOf c) := by
  unfold Part.evalHoldOf
  split
  · exact work_evalHold lv p _
  · exact .refl p

theorem work_applyStagedMax (lv : 2 ≤ n) (p : Part) (c : CoilId) : Work n p (p.applyStagedMax c) := by
  unfold Part.applyStagedMax
  split
  · refine Work.coil lv (Work.timing lv (.refl p) c _ ?_) c _
    rfl
  · exact .refl p

theorem work_applyStagedInterval (lv : 2 ≤ n) (p : Part) (c : CoilId) : Work n p (p.applyStagedInterval c) := by
  unfold Part.applyStagedInterval
  split
  · refine Work.coil lv (Work.timing lv (.refl p) c _ ?_) c _
    rfl
  · exact .refl p

theorem work_enterDefrost (lv : 2 ≤ n) (p : Part) (c : CoilId) : Work n p (p.enterDefrost c) :=
  .notice (((work_setPhase lv p c _ _).trans (work_evalHoldOf (by omega) _ c)).trans (work_applyStagedMax lv _ c)) _ _

theorem work_defrostIfQuiet (lv : 2 ≤ n) (p : Part) (r : RoomId) (c : CoilId) : Work n p (p.defrostIfQuiet r c) := by
  unfold Part.defrostIfQuiet
  split
  · exact work_enterDefrost lv p c
  · exact .refl p

theorem work_quietCheck (lv : 2 ≤ n) (p : Part) (r : RoomId) : Work n p (p.quietCheck r) :=
  Work.foldl (fun q c => work_defrostIfQuiet lv q r c) _ p

theorem work_checkLoc (lv : 2 ≤ n) (p : Part) (x : Loc) : Work n p (p.checkLoc x) := by
  cases x with
  | room r => exact work_quietCheck lv p r
  | trailer d => exact .refl p
  | transit => exact .refl p

theorem work_checkMoveRooms (lv : 2 ≤ n) (p : Part) (m : Move) : Work n p (p.checkMoveRooms m) :=
  (work_checkLoc lv p m.source).trans (work_checkLoc lv _ m.dest)

theorem work_dueEntry (lv : 2 ≤ n) (p : Part) (c : CoilId) : Work n p (p.dueEntry c) :=
  .due lv ((work_setPhase lv p c _ _).trans (work_evalHoldOf (by omega) _ c)) _

theorem work_coStart (lv : 2 ≤ n) (p : Part) (r : RoomId) : Work n p (p.coStart r) :=
  Work.foldl (fun q c => by
    show Work n q (if _ then _ else _)
    split
    · exact work_dueEntry lv q c
    · exact .refl q) _ p

theorem work_armInRoom (lv : 2 ≤ n) (p : Part) (c : CoilId) (r : RoomId) : Work n p (p.armInRoom c r) := by
  unfold Part.armInRoom
  refine Work.trans (Work.foldl (fun q d => work_owe q .defrost d) (p.doorsOf r) p) ?_
  dsimp only
  split
  · exact (work_coStart lv _ r).trans (work_defrostIfQuiet lv _ r c)
  · exact work_defrostIfQuiet lv _ r c

theorem work_arm (lv : 2 ≤ n) (p : Part) (c : CoilId) : Work n p (p.arm c) := by
  unfold Part.arm
  have w := (work_setPhase lv p c .armed (fun x => { x with armMinutes := 0, slot := true })).trans (work_evalHoldOf (by omega) _ c)
  dsimp only
  split
  · exact w.trans (work_armInRoom lv _ c _)
  · exact w

theorem work_slotStep (lv : 2 ≤ n) (p q : Part) (h : p.slotStep = some q) : Work n p q := by
  unfold Part.slotStep at h
  split at h
  · cases h
  · split at h
    · cases h
      exact (Work.due lv (.refl p) _).trans (work_arm lv _ _)
    · cases h

theorem work_slotLoop (lv : 2 ≤ n) (k : Nat) (p : Part) : Work n p (slotLoop k p) := by
  induction k generalizing p with
  | zero => exact .refl p
  | succ k ih =>
    unfold slotLoop
    split
    · rename_i q h
      exact (work_slotStep lv p q h).trans (ih q)
    · exact .refl p

theorem work_slotPass (lv : 2 ≤ n) (p : Part) : Work n p p.slotPass := by
  unfold Part.slotPass
  split
  · exact work_slotLoop lv 12 p
  · exact .refl p

theorem work_enterDue (lv : 2 ≤ n) (p : Part) (c : CoilId) : Work n p (p.enterDue c) := (work_dueEntry lv p c).trans (work_slotPass lv _)

theorem work_leaveDrip (lv : 2 ≤ n) (p : Part) (c : CoilId) : Work n p (p.leaveDrip c) :=
  ((Work.notice (.coil lv (work_setPhase lv p c .recover id) c _) .plant _).trans (work_evalHoldOf (by omega) _ c)).trans
    (work_slotPass lv _)

theorem work_enterDrip (lv : 2 ≤ n) (p : Part) (c : CoilId) (s : Stop) : Work n p (p.enterDrip c s) := by
  unfold Part.enterDrip
  have w := (work_setPhase lv p c .drip (fun x => { x with lastStop := some s })).trans (work_evalHoldOf (by omega) _ c)
  have tail : ∀ q, Work n q (if (q.coilSet c).drip = 0 then q.leaveDrip c else q) := by
    intro q
    split
    · exact work_leaveDrip lv q c
    · exact .refl q
  dsimp only
  refine Work.trans (Work.notice (Work.trans w ?_) .plant (.defrostStop c s)) (tail _)
  split
  · exact work_raiseEdge _ _ _
  · exact .refl _

theorem work_enterCooling (lv : 2 ≤ n) (p : Part) (c : CoilId) : Work n p (p.enterCooling c) :=
  ((work_setPhase lv p c .cooling id).trans (work_applyStagedInterval lv _ c)).trans (work_evalHoldOf (by omega) _ c)

/-! ### The end of a move, recall and abort -/

theorem work_endMove (p : Part) (t : Tag) : Work n p (p.endMove t) := by
  unfold Part.endMove
  refine Work.trans (Work.pallet (work_dropMove p t) t _ ?_) (work_examineMove _ t)
  intro _
  rfl

theorem work_freeHoldings (p : Part) (m : Move) : Work n p (p.freeHoldings m) :=
  (Work.foldl work_freeLane m.lanes p).trans (work_endReservation _ _)

theorem work_endTruck (p : Part) : Work n p p.endTruck := .trucks (.refl p) _

theorem work_abortCore (p : Part) (m : Move) (r : AbortReason) : Work n p (p.abortCore m r) := by
  unfold Part.abortCore
  have w := work_freeHoldings (n := n) p m
  dsimp only
  split
  · exact .notice ((w.trans (work_endTruck _)).trans (work_endMove _ _)) _ _
  · exact .notice (w.trans (work_endMove _ _)) _ _

theorem work_abort (lv : 2 ≤ n) (p : Part) (m : Move) (r : AbortReason) : Work n p (p.abort m r) :=
  (work_abortCore p m r).trans (work_checkMoveRooms lv _ m)

theorem work_recall (lv : 2 ≤ n) (p : Part) (m : Move) (r : RecallReason) : Work n p (p.recall m r) := by
  unfold Part.recall
  have w := ((work_updMove (n := n) p m.tag (fun _ => m.recalled p.now) fun _ _ => rfl).trans (work_freeHoldings _ m)).trans
    (work_endTruck _)
  have v := (Work.notice w .floor (.moveRecalled m.tag r (m.recalled p.now).recalls)).trans (work_examineMove _ m.tag)
  dsimp only
  split
  · exact (v.trans (work_abortCore _ _ _)).trans (work_checkMoveRooms lv _ m)
  · exact v.trans (work_checkMoveRooms lv _ m)

end Sys2Proof.Machine
end

