-- ==== Sys2Proof/Laws/Facts.lean ====
section
/-! SUPPORT. What work keeps: the facts, the capacities of the queues, the alarm list and the tables; and what equal
facts say of each field. -/

namespace Sys2Proof.Machine

variable {n : Nat}

/-! ### Single changes and the facts -/

/-- A record put over a record with the same image leaves the image of the table. -/
theorem map_set_same {α β : Type} {n : Nat} (v : Vector α n) (i : Nat) (h : i < n) (x : α) (f : α → β)
    (k : f x = f v[i]) : (v.set i x).map f = v.map f := by
  ext j hj
  by_cases e : i = j
  · subst e
    simp [k]
  · simp [e]

theorem facts_updRoom (p : Part) (r : RoomId) (f : Room → Room) (k : ∀ x, (f x).facts = x.facts) :
    (p.updRoom r f).facts = p.facts := by
  have h := map_set_same p.rooms r.val r.isLt (f (p.room r)) Room.facts (k _)
  simp only [Part.facts, Part.updRoom, h]

theorem facts_updDoor (p : Part) (d : DoorId) (f : Door → Door) (k : ∀ x, (f x).facts = x.facts) :
    (p.updDoor d f).facts = p.facts := by
  have h := map_set_same p.doors d.val d.isLt (f (p.door d)) Door.facts (k _)
  simp only [Part.facts, Part.updDoor, h]

theorem facts_setCoilSet (p : Part) (c : CoilId) (x : CoilSettings) (k : x.facts = (p.coilSet c).facts) :
    (p.setCoilSet c x).facts = p.facts := by
  have h := map_set_same p.store.coils c.val c.isLt x CoilSettings.facts k
  simp only [Part.facts, Part.setCoilSet, h]

theorem facts_updPallet (p : Part) (t : Tag) (f : Pallet → Pallet) (k : ∀ x, (f x).facts = x.facts) :
    (p.updPallet t f).facts = p.facts := by
  have h : ∀ x : Pallet, (if x.tag == t then f x else x).facts = x.facts := by
    intro x
    split
    · exact k x
    · rfl
  simp only [Part.facts, Part.updPallet, List.map_map, Function.comp_def, h]

theorem facts_notify (p : Part) (l : Link) (n : Notice) : (p.notify l n).facts = p.facts := by
  have k : ((p.link l).queue n).facts = (p.link l).facts := by
    unfold LinkState.queue
    split <;> rfl
  have h := map_set_same p.links (linkIndex l).val (linkIndex l).isLt ((p.link l).queue n) LinkState.facts k
  simp only [Part.facts, Part.notify, Part.updLink, h]

/-- Work keeps the facts. -/
theorem Work.facts {p q : Part} (h : Work n p q) : q.facts = p.facts := by
  induction h with
  | refl => rfl
  | reserve _ r f k ih =>
    have light : ∀ x, (f x).facts = x.facts := by
      intro x
      have := congrArg Room.facts (k x)
      exact this
    rw [facts_updRoom _ r f light, ih]
  | lane _ d f k ih =>
    have light : ∀ x, (f x).facts = x.facts := by
      intro x
      have := congrArg Door.facts (k x)
      exact this
    rw [facts_updDoor _ d f light, ih]
  | pallet _ t f k ih => rw [facts_updPallet _ t f k, ih]
  | notice _ l x ih => rw [facts_notify, ih]
  | room lv _ r f k ih => rw [facts_updRoom _ r f k, ih]
  | door lv _ d f k ih => rw [facts_updDoor _ d f k, ih]
  | timing lv _ c x k ih => rw [facts_setCoilSet _ c x k, ih]
  | _ => assumption

/-! ### What equal facts say -/

section Equal
variable {p q : Part} (h : q.facts = p.facts)
include h

theorem time_of_facts : q.time = p.time := (congrArg Part.time h : q.facts.time = p.facts.time)
theorem now_of_facts : q.now = p.now := congrArg TimeBase.runSeconds (time_of_facts h)
theorem mode_of_facts : q.store.mode = p.store.mode := congrArg (fun x => x.store.mode) h
theorem running_of_facts : q.running = p.running := by simp only [Part.running, mode_of_facts h]
theorem locks_of_facts : q.store.locks = p.store.locks := congrArg (fun x => x.store.locks) h
theorem roomSets_of_facts : q.store.rooms = p.store.rooms := congrArg (fun x => x.store.rooms) h
theorem doorSets_of_facts : q.store.doors = p.store.doors := congrArg (fun x => x.store.doors) h
theorem plant_of_facts : q.store.plant = p.store.plant := congrArg (fun x => x.store.plant) h
theorem floor_of_facts : q.store.floor = p.store.floor := congrArg (fun x => x.store.floor) h
theorem classes_of_facts : q.store.classes = p.store.classes := congrArg (fun x => x.store.classes) h
theorem routes_of_facts : q.store.routes = p.store.routes := congrArg (fun x => x.store.routes) h

theorem roomSet_of_facts (r : RoomId) : q.roomSet r = p.roomSet r := by
  simp only [Part.roomSet, roomSets_of_facts h]

theorem doorSet_of_facts (d : DoorId) : q.doorSet d = p.doorSet d := by
  simp only [Part.doorSet, doorSets_of_facts h]

theorem inner_of_facts (d : DoorId) : q.inner d = p.inner d := by
  simp only [Part.inner, doorSet_of_facts h]

theorem classRow_of_facts (k : PClass) : q.classRow k = p.classRow k := by
  simp only [Part.classRow, classes_of_facts h]

theorem route_of_facts (k : Kind) : q.route k = p.route k := by
  simp only [Part.route, routes_of_facts h]

theorem coilSet_of_facts (c : CoilId) : (q.coilSet c).facts = (p.coilSet c).facts := by
  have := congrArg (fun x => x.store.coils[c.val]) h
  simpa [Part.facts, Part.coilSet] using this

theorem coilRoom_of_facts (c : CoilId) : q.coilRoom c = p.coilRoom c :=
  (congrArg CoilSettings.room (coilSet_of_facts h c) : (q.coilSet c).facts.room = (p.coilSet c).facts.room)

theorem room_of_facts (r : RoomId) : (q.room r).facts = (p.room r).facts := by
  have := congrArg (fun x => x.rooms[r.val]) h
  simpa [Part.facts, Part.room] using this

theorem door_of_facts (d : DoorId) : (q.door d).facts = (p.door d).facts := by
  have := congrArg (fun x => x.doors[d.val]) h
  simpa [Part.facts, Part.door] using this

theorem link_of_facts (l : Link) : (q.link l).facts = (p.link l).facts := by
  have := congrArg (fun x => x.links[(linkIndex l).val]) h
  simpa [Part.facts, Part.link] using this

theorem pallets_of_facts : q.pallets.map Pallet.facts = p.pallets.map Pallet.facts := congrArg Part.pallets h

theorem tags_of_facts : q.pallets.map (·.tag) = p.pallets.map (·.tag) := by
  have := congrArg (List.map Pallet.tag) (pallets_of_facts h)
  simpa [List.map_map, Function.comp_def, Pallet.facts] using this

end Equal

/-! ### What the lower levels leave alone besides -/

/-- Up to the grant pass, work leaves the coil table, the DUE queue and every setting alone. -/
theorem Work.coils {p q : Part} (h : Work n p q) (lv : n ≤ 1) :
    q.coils = p.coils ∧ q.due = p.due ∧ q.store = p.store := by
  induction h with
  | refl => exact ⟨rfl, rfl, rfl⟩
  | coil lv' => omega
  | timing lv' => omega
  | due lv' => omega
  | _ => assumption

/-- The release pass's level leaves the change sets alone. -/
theorem Work.changeSets {p q : Part} (h : Work n p q) (lv : n ≤ 0) : q.changes = p.changes := by
  induction h with
  | refl => rfl
  | marks lv' => omega
  | room lv' => omega
  | door lv' => omega
  | _ => assumption

/-- The release pass's level changes a room in its reservations alone. -/
theorem Work.roomLight {p q : Part} (h : Work n p q) (lv : n ≤ 0) (r : RoomId) :
    { q.room r with reservations := 0 } = { p.room r with reservations := 0 } := by
  induction h with
  | refl => rfl
  | reserve _ e f k ih =>
    by_cases c : e = r
    · subst c
      rw [Part.room_updRoom, k]
      exact ih
    · rw [Part.room_updRoom_ne _ f c]
      exact ih
  | marks lv' => omega
  | room lv' => omega
  | door lv' => omega
  | _ => assumption

/-- The release pass's level changes a door in its lane and its close order alone. -/
theorem Work.doorLight {p q : Part} (h : Work n p q) (lv : n ≤ 0) (d : DoorId) :
    { q.door d with owed := none, sent := false, lane := none } =
      { p.door d with owed := none, sent := false, lane := none } := by
  induction h with
  | refl => rfl
  | lane _ e f k ih =>
    by_cases c : e = d
    · subst c
      rw [Part.door_updDoor, k]
      exact ih
    · rw [Part.door_updDoor_ne _ f c]
      exact ih
  | marks lv' => omega
  | room lv' => omega
  | door lv' => omega
  | _ => assumption

/-! ### The queues of the links -/

theorem queue_range (k : LinkState) (n : Notice) (h : k.notices.length ≤ Config.noticeCapacity) :
    (k.queue n).notices.length ≤ Config.noticeCapacity ∧ (k.queue n).answers = k.answers := by
  unfold LinkState.queue
  split
  · rename_i lt
    exact ⟨by simp; omega, rfl⟩
  · exact ⟨h, rfl⟩

theorem queues_updLink (p : Part) (l : Link) (f : LinkState → LinkState) (h : p.QueuesInRange)
    (k : ∀ x, x.notices.length ≤ Config.noticeCapacity ∧ x.answers.length ≤ Config.answerCapacity →
      (f x).notices.length ≤ Config.noticeCapacity ∧ (f x).answers.length ≤ Config.answerCapacity) :
    (p.updLink l f).QueuesInRange := by
  intro m
  by_cases e : l = m
  · subst e
    rw [Part.link_updLink]
    exact k _ (h l)
  · rw [Part.link_updLink_ne p f e]
    exact h m

theorem queues_notify (p : Part) (l : Link) (n : Notice) (h : p.QueuesInRange) : (p.notify l n).QueuesInRange :=
  queues_updLink p l _ h fun x hx => ⟨(queue_range x n hx.1).1, by rw [(queue_range x n hx.1).2]; exact hx.2⟩

/-- Work keeps the capacities of the links' queues. -/
theorem Work.queues {p q : Part} (h : Work n p q) (k : p.QueuesInRange) : q.QueuesInRange := by
  induction h with
  | refl => exact k
  | notice _ l x ih => exact queues_notify _ l x ih
  | _ => assumption

/-! ### The alarm list -/

theorem alarm_fresh {p : Part} {k : Kind} {o : Nat} (h : p.alarm? k o = none) :
    (k, o) ∉ p.alarms.map fun a => (a.kind, a.object) := by
  intro hm
  obtain ⟨a, ha, he⟩ := List.mem_map.1 hm
  have := List.find?_eq_none.1 h a ha
  simp only [Prod.mk.injEq] at he
  simp [Alarm.isOf, he.1, he.2] at this

theorem alarms_entry (p : Part) (k : Kind) (o : Nat) (f : Alarm → Alarm)
    (same : ∀ a, a.isOf k o = true → (f a).kind = a.kind ∧ (f a).object = a.object)
    (range : p.RepeatsInRange → ∀ a ∈ p.alarms, a.isOf k o = true →
      1 ≤ (f a).repeats ∧ (f a).repeats ≤ Config.countMax)
    (h : p.AlarmsInRange) : (p.updAlarm k o f).AlarmsInRange := by
  obtain ⟨h1, h2, h3⟩ := h
  refine ⟨by simpa [Part.updAlarm] using h1, ?_, ?_⟩
  · have : (p.updAlarm k o f).alarms.map (fun a => (a.kind, a.object)) = p.alarms.map fun a => (a.kind, a.object) := by
      simp only [Part.updAlarm, List.map_map]
      apply List.map_congr_left
      intro a _
      simp only [Function.comp]
      split
      · rename_i e
        rw [(same a e).1, (same a e).2]
      · rfl
    rw [this]
    exact h2
  · intro b hb
    simp only [Part.updAlarm, List.mem_map] at hb
    obtain ⟨a, ha, rfl⟩ := hb
    split
    · rename_i e
      exact range h3 a ha e
    · exact h3 a ha

theorem alarms_made (p : Part) (a : Alarm) (room : p.listFull = false) (fresh : p.alarm? a.kind a.object = none)
    (one : a.repeats = 1) (h : p.AlarmsInRange) : Part.AlarmsInRange { p with alarms := p.alarms ++ [a] } := by
  obtain ⟨h1, h2, h3⟩ := h
  simp only [Part.listFull, decide_eq_false_iff_not, Nat.not_le] at room
  refine ⟨by simp; omega, ?_, ?_⟩
  · simp only [List.map_append, List.map_cons, List.map_nil]
    refine List.nodup_append.2 ⟨h2, by simp, ?_⟩
    intro x hx y hy e
    simp only [List.mem_singleton] at hy
    subst hy
    subst e
    exact alarm_fresh fresh hx
  · intro b hb
    rcases List.mem_append.1 hb with hb | hb
    · exact h3 b hb
    · simp only [List.mem_singleton] at hb
      subst hb
      simp [one, Config.countMax]

/-- Work keeps the alarm list in its range. -/
theorem Work.alarms {p q : Part} (h : Work n p q) (k : p.AlarmsInRange) : q.AlarmsInRange := by
  induction h with
  | refl => exact k
  | entry _ kind o f same range ih => exact alarms_entry _ kind o f same range ih
  | made _ a room fresh one ih => exact alarms_made _ a room fresh one ih
  | _ => assumption

/-! ### The tables -/

/-- Work takes the tags of the move queue only out of it. -/
theorem Work.moveTags {p q : Part} (h : Work n p q) : (q.moves.map (·.tag)).Sublist (p.moves.map (·.tag)) := by
  induction h with
  | refl => exact List.Sublist.refl _
  | moves _ ms k ih => exact k.trans ih
  | _ => assumption

/-- Work keeps the tables in their range. -/
theorem Work.tables {p q : Part} (h : Work n p q) (k : p.TablesInRange) : q.TablesInRange := by
  obtain ⟨h1, h2, h3⟩ := k
  have ht := tags_of_facts h.facts
  have hm := h.moveTags
  refine ⟨?_, by rw [ht]; exact h2, ?_⟩
  · have := congrArg List.length ht
    simp only [List.length_map] at this
    omega
  · have := hm.length_le
    simp only [List.length_map] at this
    omega

end Sys2Proof.Machine
end

