-- ==== Sys2Proof/Laws/Fields.lean ====
section
/-! SUPPORT. The fields of the wire against the fields of the manual's layouts (R183): each encoding of Wire.lean is
the field of Safety.lean of its size; and what one setting of a request makes of the settings (R184). -/

namespace Sys2Proof.Machine

@[simp] theorem unsignedField_length (size n : Nat) : (unsignedField size n).length = size := by
  simp [unsignedField]

@[simp] theorem signedField_length (size : Nat) (v : Int) : (signedField size v).length = size :=
  unsignedField_length size _

theorem u8_eq_field (n : Nat) : u8 n = unsignedField 1 n := by simp [u8, unsignedField]

theorem u16_eq_field (n : Nat) : u16 n = unsignedField 2 n := by
  simp only [u16, bytes16, unsignedField, List.range, List.range.loop, List.reverse_cons, List.reverse_nil,
    List.nil_append, List.cons_append, List.map, List.cons.injEq, and_true]
  constructor <;> apply BitVec.eq_of_toNat_eq <;>
    simp only [BitVec.extractLsb'_toNat, BitVec.toNat_ofNat, Nat.shiftRight_eq_div_pow] <;> omega

theorem u32_eq_field (n : Nat) : u32 n = unsignedField 4 n := by
  simp only [u32, bytes32, unsignedField, List.range, List.range.loop, List.reverse_cons, List.reverse_nil,
    List.nil_append, List.cons_append, List.map, List.cons.injEq, and_true]
  refine ⟨?_, ?_, ?_, ?_⟩ <;> apply BitVec.eq_of_toNat_eq <;>
    simp only [BitVec.extractLsb'_toNat, BitVec.toNat_ofNat, Nat.shiftRight_eq_div_pow] <;> omega

/-- A signed field holds its value modulo the field's size. -/
theorem ofInt_eq_ofNat (w : Nat) (v : Int) : BitVec.ofInt w v = BitVec.ofNat w (v % 2 ^ w).toNat := by
  apply BitVec.eq_of_toInt_eq
  have h : 0 ≤ v % (2 : Int) ^ w := Int.emod_nonneg _ (by positivity)
  rw [BitVec.toInt_ofInt, ← BitVec.ofInt_natCast, BitVec.toInt_ofInt, Int.toNat_of_nonneg h]
  simp [Int.bmod_def]

theorem i16_eq_field (v : Int) : i16 v = signedField 2 v := by
  rw [i16, ofInt_eq_ofNat]; exact u16_eq_field _

theorem i32_eq_field (v : Int) : i32 v = signedField 4 v := by
  rw [i32, ofInt_eq_ofNat]; exact u32_eq_field _

/-- A request of one item makes of the settings what the item makes of them. -/
theorem newSettings_one {σ : Type} (rule : ItemRule σ) (x : σ) (i : Item) :
    newSettings rule [i] x = settingGiven rule x i.num.toNat i.value.toInt := by
  simp only [newSettings, distinctItems, applyItems, settingGiven, List.any_nil, Bool.not_false, Bool.and_self, if_true]
  cases rule i.num.toNat i.value.toInt <;> rfl

/-- No setting number is named twice exactly when the numbers are distinct. -/
theorem distinctItems_iff (items : List Item) : distinctItems items = true ↔ (items.map (·.num)).Nodup := by
  induction items with
  | nil => simp [distinctItems]
  | cons i rest ih =>
    simp only [distinctItems, Bool.and_eq_true, ih, List.map_cons, List.nodup_cons]
    refine and_congr_left fun _ => ?_
    simp only [Bool.not_eq_true', List.any_eq_false, beq_iff_eq, List.mem_map, not_exists, not_and]

/-- A flag set among flags: it is set, and the others are as they were. -/
theorem getLsbD_markBit {w : Nat} (b : BitVec w) (i j : Nat) (h : i < w) :
    (markBit b i).getLsbD j = (b.getLsbD j || decide (i = j)) := by
  simp [markBit, BitVec.getLsbD_twoPow, h]

end Sys2Proof.Machine
end

