-- ==== Sys2Proof/Laws/Passes.lean ====
section
/-! SUPPORT. What the follow-ons leave behind: a notice once queued stays told whatever work comes after it, a release
pass of RUN leaves no move that could be released, a grant pass no door that could be granted, and an examination the
alarm list showing the present truth. -/

namespace Sys2Proof.Machine

variable {n : Nat}

/-! ### Notices -/

/-- A notice just queued is told. -/
theorem told_notify (p : Part) (l : Link) (x : Notice) : (p.notify l x).Told l x := by
  unfold Part.Told Part.notify
  rw [Part.link_updLink]
  unfold LinkState.queue
  split
  · exact .inl (by simp)
  · exact .inr rfl

/-- Another notice leaves told what was told. -/
theorem told_notify_of_told {p : Part} {l : Link} {x : Notice} (h : p.Told l x) (k : Link) (y : Notice) :
    (p.notify k y).Told l x := by
  unfold Part.Told Part.notify at *
  by_cases e : k = l
  · subst e
    rw [Part.link_updLink]
    unfold LinkState.queue
    split
    · exact h.imp (fun m => List.mem_append_left _ m) id
    · exact .inr rfl
  · rw [Part.link_updLink_ne p _ e]
    exact h

/-- Work leaves told what was told. -/
theorem Work.told {p q : Part} (h : Work n p q) {l : Link} {x : Notice} (k : p.Told l x) : q.Told l x := by
  induction h with
  | refl => exact k
  | notice _ m y ih => exact told_notify_of_told ih m y
  | _ => assumption

/-! ### The release pass (R123) -/

theorem moves_sendAlarm (p : Part) (a : Alarm) : (p.sendAlarm a).moves = p.moves := by
  unfold Part.sendAlarm
  generalize allLinks = ls
  induction ls generalizing p with
  | nil => rfl
  | cons l rest ih =>
    rw [List.foldl_cons, ih]
    split <;> rfl

theorem moves_handLevel (p : Part) (k : Kind) (o : Nat) (b : Bool) : (p.handLevel k o b).moves = p.moves := by
  unfold Part.handLevel Part.levelTrue Part.levelFalse
  split
  · split
    · rfl
    · split
      · rfl
      · exact moves_sendAlarm _ _
  · rfl

theorem moves_examineMove (p : Part) (t : Tag) : (p.examineMove t).moves = p.moves :=
  (moves_handLevel _ _ _ _).trans (moves_handLevel _ _ _ _)

theorem moves_takeLanes (p : Part) (t : Tag) (ds : List DoorId) :
    (ds.foldl (fun q d => q.takeLane t d) p).moves = p.moves := by
  induction ds generalizing p with
  | nil => rfl
  | cons d rest ih =>
    rw [List.foldl_cons, ih]
    rfl

theorem moves_addReservation (p : Part) (r : Option RoomId) : (p.addReservation r).moves = p.moves := by
  cases r <;> rfl

/-- A release changes the records of its move's tag and no other, and leaves them RELEASED. -/
theorem moves_releaseChosen (p : Part) (m : Move) :
    (p.releaseChosen m).moves = p.moves.map (fun x => if x.tag == m.tag then
      { x with state := .released, stateStamp := p.now, pickSeconds := 0, lanes := m.laneDoors,
               reservation := m.dest.room? } else x) := by
  show (p.release m).moves = _
  unfold Part.release
  dsimp only
  rw [moves_examineMove, Part.notify_moves]
  refine (moves_addReservation _ _).trans ?_
  rw [moves_takeLanes]
  rfl

/-- The moves of a queue that are QUEUED. -/
def queuedOf (ms : List Move) : List Move := ms.filter (fun x => x.state == .queued)

/-- A chosen move is in the queue, is QUEUED, and was eligible (R121, R123). -/
theorem chooseMove_some {p : Part} {skip : List Tag} {m : Move} (h : p.chooseMove skip = some m) :
    m ∈ p.moves ∧ p.eligible m = true ∧ m.state = .queued := by
  have key : m ∈ p.moves.filter (fun x => p.eligible x && !skip.contains x.tag) := by
    unfold Part.chooseMove at h
    dsimp only at h
    split at h
    · cases h
    · split at h
      · rename_i a e
        cases h
        split at e
        · exact List.mem_of_find?_eq_some e
        · cases e
      · exact List.mem_of_mem_head? (Option.mem_def.2 h)
  obtain ⟨k1, k2⟩ := List.mem_filter.1 key
  simp only [Bool.and_eq_true] at k2
  have k3 := k2.1
  simp only [Part.eligible, Bool.and_eq_true, beq_iff_eq] at k3
  exact ⟨k1, k2.1, k3.1.1⟩

/-- Nothing is chosen at the truck limit, or where no move is eligible (R123). -/
theorem noMoveLeft_of_chooseMove {p : Part} (h : p.chooseMove [] = none) : p.NoMoveLeft := by
  intro room m mem
  unfold Part.chooseMove at h
  dsimp only at h
  rw [if_neg (Nat.not_le.2 room)] at h
  split at h
  · cases h
  · have e := List.head?_eq_none_iff.1 h
    have := List.filter_eq_nil_iff.1 e m mem
    simpa using this

theorem queued_map_length (f : Move → Move) (t : Tag) (k : ∀ x, (f x).state = .released) (ms : List Move) :
    (queuedOf (ms.map fun x => if x.tag == t then f x else x)).length ≤ (queuedOf ms).length ∧
    ((∃ m ∈ ms, m.tag = t ∧ m.state = .queued) →
      (queuedOf (ms.map fun x => if x.tag == t then f x else x)).length < (queuedOf ms).length) := by
  induction ms with
  | nil => simp [queuedOf]
  | cons a rest ih =>
    obtain ⟨ih1, ih2⟩ := ih
    simp only [queuedOf] at ih1 ih2 ⊢
    by_cases e : a.tag = t
    · have h1 : ((f a).state == MoveState.queued) = false := by rw [k a]; rfl
      have hb : (a.tag == t) = true := by simpa using e
      simp only [List.map_cons, hb, if_true, List.filter_cons, h1]
      by_cases q : a.state = .queued
      · have hq : (a.state == MoveState.queued) = true := by simpa using q
        simp only [hq, if_true, Bool.false_eq_true, if_false, List.length_cons]
        exact ⟨by omega, fun _ => by omega⟩
      · have hq : (a.state == MoveState.queued) = false := by simpa using q
        simp only [hq, Bool.false_eq_true, if_false]
        refine ⟨ih1, ?_⟩
        rintro ⟨m, hm, h2, h3⟩
        rcases List.mem_cons.1 hm with rfl | hm
        · exact absurd h3 q
        · exact ih2 ⟨m, hm, h2, h3⟩
    · have hb : (a.tag == t) = false := by simpa using e
      simp only [List.map_cons, hb, List.filter_cons]
      have rest' : (∃ m ∈ a :: rest, m.tag = t ∧ m.state = .queued) → ∃ m ∈ rest, m.tag = t ∧ m.state = .queued := by
        rintro ⟨m, hm, h2, h3⟩
        rcases List.mem_cons.1 hm with rfl | hm
        · exact absurd h2 e
        · exact ⟨m, hm, h2, h3⟩
      by_cases q : (a.state == MoveState.queued) = true
      · simp only [q, if_true, List.length_cons, Bool.false_eq_true, if_false]
        exact ⟨by omega, fun h => by have := ih2 (rest' h); omega⟩
      · simp only [q, if_false, Bool.false_eq_true]
        exact ⟨ih1, fun h => ih2 (rest' h)⟩

/-- With as many steps as moves are QUEUED, the release loop ends with nothing to choose. -/
theorem chooseMove_releaseLoop (k : Nat) (p : Part) (h : (queuedOf p.moves).length ≤ k) :
    (releaseLoop [] k p).chooseMove [] = none := by
  induction k generalizing p with
  | zero =>
    show p.chooseMove [] = none
    cases e : p.chooseMove [] with
    | none => rfl
    | some m =>
      obtain ⟨mem, _, st⟩ := chooseMove_some e
      have : m ∈ queuedOf p.moves := List.mem_filter.2 ⟨mem, by simpa using st⟩
      have := List.length_pos_of_mem this
      omega
  | succ k ih =>
    unfold releaseLoop
    split
    · rename_i m e
      apply ih
      obtain ⟨mem, _, st⟩ := chooseMove_some e
      rw [moves_releaseChosen]
      refine Nat.le_of_lt_succ (Nat.lt_of_lt_of_le ((queued_map_length _ m.tag ?_ p.moves).2 ⟨m, mem, rfl, st⟩) h)
      exact fun _ => rfl
    · assumption

/-- A release pass of RUN leaves no move that could be released (R122, R123). -/
theorem noMoveLeft_releasePass {p : Part} (run : p.running = true) : p.releasePass.NoMoveLeft := by
  apply noMoveLeft_of_chooseMove
  unfold Part.releasePass Part.releasePassBut
  rw [if_pos run]
  exact chooseMove_releaseLoop _ p (List.length_filter_le ..)

/-! ### The grant pass (R58, R59) -/

/-- A door's change of state leaves the room queues. -/
theorem queue_changeDoor (p : Part) (d : DoorId) (st : DoorState) (r : RoomId) :
    ((p.changeDoor d st).room r).queue = (p.room r).queue := by
  have alarm : ∀ (a : Part) (k : Kind) (o : Nat) (b : Bool), ((a.handLevel k o b).room r).queue = (a.room r).queue :=
    fun a k o b => by simpa using congrArg Room.queue ((work_handLevel (n := 0) a k o b).roomLight (by omega) r)
  unfold Part.changeDoor
  split
  · rfl
  · dsimp only
    split
    · exact alarm _ .doorSealLost d.val true
    · split
      · exact alarm _ .doorSealLost d.val false
      · rfl

/-- A grant takes the head of the room's queue. -/
theorem queue_grant (p : Part) (r : RoomId) (d : DoorId) (rest : List DoorId) :
    ((p.grant r d rest).room r).queue = rest := by
  unfold Part.grant
  dsimp only
  have light := fun a : Part => congrArg Room.queue ((work_releasePass (n := 0) a).roomLight (by omega) r)
  refine (light _).trans ?_
  rw [Part.room_updRoom]
  exact (queue_changeDoor _ d _ r).trans (by rw [Part.room_updRoom])

/-- Where no grant follows, no door of the room waits that could be granted (R59). -/
theorem noDoorLeft_of_grantStep {p : Part} {r : RoomId} (h : p.grantStep r = none) : p.NoDoorLeft r := by
  intro waits
  unfold Part.grantStep at h
  split at h
  · split at h
    · cases h
    · rename_i may
      simp only [Part.mayGrant, Bool.and_eq_true, Bool.not_eq_true', decide_eq_true_eq, not_and, Nat.not_lt] at may
      by_cases hold : (p.room r).hold = true
      · exact .inl hold
      · exact .inr (may (by simpa using hold))
  · rename_i e
    exact absurd e waits

/-- With as many grants as doors wait, the grant loop ends with none to follow. -/
theorem grantStep_grantLoop (r : RoomId) (k : Nat) (p : Part) (h : (p.room r).queue.length ≤ k) :
    (grantLoop r k p).grantStep r = none := by
  induction k generalizing p with
  | zero =>
    show p.grantStep r = none
    unfold Part.grantStep
    have : (p.room r).queue = [] := List.eq_nil_of_length_eq_zero (by omega)
    rw [this]
  | succ k ih =>
    unfold grantLoop
    split
    · rename_i q e
      apply ih
      unfold Part.grantStep at e
      split at e
      · rename_i d rest hq
        split at e
        · cases e
          rw [queue_grant]
          rw [hq] at h
          simpa using h
        · cases e
      · cases e
    · assumption

/-- A grant pass of RUN leaves no door of the room that could be granted (R58, R59). -/
theorem noDoorLeft_grantPass {p : Part} (run : p.running = true) (r : RoomId) : (p.grantPass r).NoDoorLeft r := by
  apply noDoorLeft_of_grantStep
  unfold Part.grantPass
  rw [if_pos run]
  exact grantStep_grantLoop r _ p (Nat.le_refl _)

/-! ### An examination (R141, R147, R148) -/

/-- Sending an alarm's notices changes the links and nothing else. -/
theorem sendAlarm_links (p : Part) (a : Alarm) : ∃ ls, p.sendAlarm a = { p with links := ls } := by
  unfold Part.sendAlarm
  generalize allLinks = ls
  induction ls generalizing p with
  | nil => exact ⟨p.links, rfl⟩
  | cons l rest ih =>
    rw [List.foldl_cons]
    split
    · obtain ⟨xs, e⟩ := ih (p.notify l (p.alarmNotice a l))
      exact ⟨xs, e⟩
    · exact ih p

/-- Handing a level condition on changes the alarms, the settled pairs and the links; a listed alarm of another pair
stays, and no other is made. -/
theorem handLevel_parts (p : Part) (k : Kind) (o : Nat) (b : Bool) : ∃ as st ls,
    p.handLevel k o b = { p with alarms := as, settled := st, links := ls } ∧
    (∀ j u, (j, u) ≠ (k, o) →
      (∀ a, a.kind = j → a.object = u → (a ∈ as ↔ a ∈ p.alarms)) ∧ ((j, u) ∈ st ↔ (j, u) ∈ p.settled)) ∧
    p.alarms.length ≤ as.length := by
  have map (c : Option Bool) (j : Kind) (u : Nat) (ne : (j, u) ≠ (k, o)) (a : Alarm) (h1 : a.kind = j)
      (h2 : a.object = u) :
      a ∈ p.alarms.map (fun a => if a.isOf k o then { a with cond := c } else a) ↔ a ∈ p.alarms := by
    have na : ¬(a.kind = k ∧ a.object = o) := fun h => ne (by rw [← h1, ← h2, h.1, h.2])
    constructor
    · intro h
      obtain ⟨x, hx, rfl⟩ := List.mem_map.1 h
      by_cases e : x.isOf k o = true
      · simp only [Alarm.isOf, Bool.and_eq_true, beq_iff_eq] at e
        exact absurd (by simp [Alarm.isOf, e]) na
      · rwa [if_neg e]
    · intro h
      refine List.mem_map.2 ⟨a, h, if_neg ?_⟩
      simpa [Alarm.isOf] using na
  unfold Part.handLevel Part.levelTrue Part.levelFalse
  split
  · split
    · exact ⟨_, _, _, rfl, fun j u ne => ⟨fun a => map _ j u ne a, .rfl⟩, by simp⟩
    · split
      · exact ⟨_, _, _, rfl, fun j u ne => ⟨fun a _ _ => .rfl, .rfl⟩, Nat.le_refl _⟩
      · obtain ⟨ls, e⟩ := sendAlarm_links { p with alarms := p.alarms ++ [⟨k, o, p.now, 1, some true⟩] }
          ⟨k, o, p.now, 1, some true⟩
        refine ⟨_, _, ls, e, fun j u ne => ⟨fun a h1 h2 => ?_, .rfl⟩, by simp⟩
        rw [List.mem_append, List.mem_singleton]
        refine ⟨fun h => h.resolve_right ?_, .inl⟩
        rintro rfl
        exact ne (by rw [← h1, ← h2])
  · refine ⟨_, _, _, rfl, fun j u ne => ⟨fun a => map _ j u ne a, ?_⟩, by simp [Part.updAlarm]⟩
    simp [Part.updAlarm, ne]

/-- Handing a level condition on leaves every condition as it is. -/
theorem condition_handLevel (p : Part) (k : Kind) (o : Nat) (b : Bool) (j : Kind) (u : Nat) :
    (p.handLevel k o b).condition j u = p.condition j u := by
  obtain ⟨as, st, ls, e, -⟩ := handLevel_parts p k o b
  rw [e]
  rfl

/-- An examination leaves the alarm list showing the present truth of the pair examined. -/
theorem shows_examine (p : Part) (k : Kind) (o : Nat) : (p.examine k o).Shows k o := by
  unfold Part.Shows
  rw [show (p.examine k o).condition k o = p.condition k o from condition_handLevel p k o _ k o]
  have alarm (a : Alarm) (c : Option Bool) (h : a ∈ (p.updAlarm k o fun a => { a with cond := c }).alarms)
      (h1 : a.kind = k) (h2 : a.object = o) : a.cond = c := by
    obtain ⟨x, -, rfl⟩ := List.mem_map.1 h
    by_cases e : x.isOf k o = true
    · rw [if_pos e]
    · rw [if_neg e] at h1 h2
      exact absurd (by simp [Alarm.isOf, h1, h2]) e
  unfold Part.examine Part.handLevel
  cases p.condition k o with
  | false =>
    refine ⟨fun a h h1 h2 => alarm a _ h h1 h2, fun h => absurd h (by decide), fun _ => ?_⟩
    simp [Part.levelFalse, Part.unsettle]
  | true =>
    refine ⟨?_, ?_, fun h => absurd h (by decide)⟩
    · intro a h h1 h2
      simp only [if_true] at h
      unfold Part.levelTrue at h
      split at h
      · exact alarm a _ h h1 h2
      · rename_i none
        have absent (m : a ∈ p.alarms) : False :=
          absurd (by simp [Alarm.isOf, h1, h2]) (List.find?_eq_none.1 none a m)
        split at h
        · exact (absent h).elim
        · obtain ⟨ls, e⟩ := sendAlarm_links { p with alarms := p.alarms ++ [⟨k, o, p.now, 1, some true⟩] }
            ⟨k, o, p.now, 1, some true⟩
          have m : a ∈ p.alarms ++ [⟨k, o, p.now, 1, some true⟩] := by
            simpa only [Part.makeAlarm, e] using h
          rcases List.mem_append.1 m with m | m
          · exact (absent m).elim
          · rw [List.mem_singleton.1 m]
    · intro _ ns
      simp only [if_true] at ns ⊢
      unfold Part.levelTrue at ns ⊢
      split
      · rename_i x e
        refine .inr (.inl ⟨_, List.mem_map.2 ⟨x, List.mem_of_find?_eq_some e, rfl⟩, ?_⟩)
        have := List.find?_some e
        simp only [this, if_true]
        simpa [Alarm.isOf] using this
      · rename_i e
        rw [e] at ns
        split
        · rename_i c
          simp only [c, if_true] at ns
          simp only [Bool.or_eq_true, Part.isSettled, List.contains_iff_mem] at c
          rcases c with (c | c) | c
          · exact .inl c
          · exact absurd c ns
          · exact .inr (.inr (by simpa [Part.listFull] using c))
        · obtain ⟨ls, e⟩ := sendAlarm_links { p with alarms := p.alarms ++ [⟨k, o, p.now, 1, some true⟩] }
            ⟨k, o, p.now, 1, some true⟩
          refine .inr (.inl ⟨⟨k, o, p.now, 1, some true⟩, ?_, rfl, rfl⟩)
          simp only [Part.makeAlarm, e, List.mem_append, List.mem_singleton, or_true]

/-- An examination of another pair leaves shown what was shown. -/
theorem shows_examine_of_shows {p : Part} {j : Kind} {u : Nat} (h : p.Shows j u) {k : Kind} {o : Nat}
    (ne : (j, u) ≠ (k, o)) : (p.examine k o).Shows j u := by
  obtain ⟨as, st, ls, e, other, len⟩ := handLevel_parts p k o (p.condition k o)
  obtain ⟨al, se⟩ := other j u ne
  unfold Part.examine
  rw [e]
  refine ⟨fun a m h1 h2 => h.1 a ((al a h1 h2).1 m) h1 h2, fun c ns => ?_, fun c m => h.2.2 c (se.1 m)⟩
  rcases h.2.1 c (fun m => ns (se.2 m)) with x | ⟨a, m, h1, h2⟩ | x
  · exact .inl x
  · exact .inr (.inl ⟨a, (al a h1 h2).2 m, h1, h2⟩)
  · exact .inr (.inr (Nat.le_trans x len))

/-- After both conditions of a coil are examined, both are shown (R96, R97). -/
theorem coilShown_examineCoil (p : Part) (c : CoilId) : (p.examineCoil c).CoilShown c :=
  ⟨shows_examine_of_shows (shows_examine _ _ _) (by simp), shows_examine _ _ _⟩

/-- After both conditions of a move are examined, both are shown (R136). -/
theorem moveShown_examineMove (p : Part) (t : Tag) : (p.examineMove t).MoveShown t :=
  ⟨shows_examine_of_shows (shows_examine _ _ _) (by simp), shows_examine _ _ _⟩

end Sys2Proof.Machine
end

