-- ==== Sys2Proof/Laws/PerInstr.lean ====
section
/-! SUPPORT. Lemmas about every command, one for each constructor. -/

namespace Sys2Proof

theorem length_itemBytes (items : List Item) : (itemBytes items).length = 5 * items.length := by
  induction items with
  | nil => rfl
  | cons i rest ih => simp [itemBytes, bytes32, ih]; omega

theorem length_of_itemsOk {count : Nat} {items : List Item} (h : itemsOk count items = true) :
    (itemBytes items).length ≤ 5 * count := by
  rw [length_itemBytes]
  simp [itemsOk] at h
  omega

end Sys2Proof

namespace Sys2Proof.Laws.RequestKind

/-- A request's message kind is one of the request kinds 0x01 to 0x2B, and the body of a well-formed one is at most
61 bytes long (R182, R184). -/
def Statement (i : Instr) : Prop :=
  ∀ (l : Link) (msg ft : Byte) (body : List Byte), i.onWire = some (l, msg, ft, body) →
    1 ≤ msg.toNat ∧ msg.toNat ≤ 0x2B ∧ (i.wellFormed = true → body.length ≤ 61)

/-- A command that is no request. -/
theorem of_none {i : Instr} (h : i.onWire = none) : Statement i := by
  intro l msg ft body k
  simp [h] at k

/-- A request by its wire form. -/
theorem of_some {i : Instr} {l : Link} {msg ft : Byte} {body : List Byte} (h : i.onWire = some (l, msg, ft, body))
    (lo : 1 ≤ msg.toNat) (hi : msg.toNat ≤ 0x2B) (len : i.wellFormed = true → body.length ≤ 61) : Statement i := by
  intro l' msg' ft' body' k
  rw [h] at k
  cases k
  exact ⟨lo, hi, len⟩

theorem pinReset : Statement (.pinReset) := of_none rfl

theorem secondEvent : Statement (.secondEvent) := of_none rfl

theorem exposureTick : Statement (.exposureTick) := of_none rfl

theorem minuteEvent : Statement (.minuteEvent) := of_none rfl

theorem roomSensorStale (room : RoomId) : Statement (.roomSensorStale room) := of_none rfl

theorem roomOverTemp (room : RoomId) : Statement (.roomOverTemp room) := of_none rfl

theorem roomExposure (room : RoomId) : Statement (.roomExposure room) := of_none rfl

theorem sealQualification (door : DoorId) : Statement (.sealQualification door) := of_none rfl

theorem doorOpenLong (door : DoorId) : Statement (.doorOpenLong door) := of_none rfl

theorem coolingInterval (coil : CoilId) : Statement (.coolingInterval coil) := of_none rfl

theorem defrostOverrun (coil : CoilId) : Statement (.defrostOverrun coil) := of_none rfl

theorem dripEnd (coil : CoilId) : Statement (.dripEnd coil) := of_none rfl

theorem recoveryFail (coil : CoilId) : Statement (.recoveryFail coil) := of_none rfl

theorem defrostDeferred (coil : CoilId) : Statement (.defrostDeferred coil) := of_none rfl

theorem defrostBlocked (coil : CoilId) : Statement (.defrostBlocked coil) := of_none rfl

theorem pickTimeout (tag : Tag) : Statement (.pickTimeout tag) := of_none rfl

theorem transitLong (tag : Tag) : Statement (.transitLong tag) := of_none rfl

theorem moveStalled (tag : Tag) : Statement (.moveStalled tag) := of_none rfl

theorem palletBreach (tag : Tag) : Statement (.palletBreach tag) := of_none rfl

theorem doorGrant (room : RoomId) : Statement (.doorGrant room) := of_none rfl

theorem slotGrant : Statement (.slotGrant) := of_none rfl

theorem defrostEntry (coil : CoilId) : Statement (.defrostEntry coil) := of_none rfl

theorem moveRelease : Statement (.moveRelease) := of_none rfl

theorem closeOrder (door : DoorId) : Statement (.closeOrder door) := of_none rfl

theorem temperatureSample (link : Link) (ft : Byte) (room kind : Byte) (value : Word16) :
    Statement (.temperatureSample link ft room kind value) :=
  of_some rfl (by decide) (by decide) fun _ =>
    Nat.le_of_ble_eq_true rfl

theorem coilTerminated (link : Link) (ft : Byte) (coil : Byte) : Statement (.coilTerminated link ft coil) :=
  of_some rfl (by decide) (by decide) fun _ =>
    Nat.le_of_ble_eq_true rfl

theorem demandDefrost (link : Link) (ft : Byte) (coil : Byte) : Statement (.demandDefrost link ft coil) :=
  of_some rfl (by decide) (by decide) fun _ =>
    Nat.le_of_ble_eq_true rfl

theorem stageCoilTiming (link : Link) (ft : Byte) (coil presence : Byte) (interval : Word16) (maximum : Byte) :
    Statement (.stageCoilTiming link ft coil presence interval maximum) :=
  of_some rfl (by decide) (by decide) fun _ =>
    Nat.le_of_ble_eq_true rfl

theorem coilService (link : Link) (ft : Byte) (coil value : Byte) : Statement (.coilService link ft coil value) :=
  of_some rfl (by decide) (by decide) fun _ =>
    Nat.le_of_ble_eq_true rfl

theorem resetRoomExposure (link : Link) (ft : Byte) (room : Byte) : Statement (.resetRoomExposure link ft room) :=
  of_some rfl (by decide) (by decide) fun _ =>
    Nat.le_of_ble_eq_true rfl

theorem trailerArrived (link : Link) (ft : Byte) (door : Byte) (reading : Option Word16) :
    Statement (.trailerArrived link ft door reading) := by
  cases reading <;> exact of_some rfl (by decide) (by decide) fun _ => Nat.le_of_ble_eq_true rfl

theorem trailerLeft (link : Link) (ft : Byte) (door : Byte) : Statement (.trailerLeft link ft door) :=
  of_some rfl (by decide) (by decide) fun _ =>
    Nat.le_of_ble_eq_true rfl

theorem restraint (link : Link) (ft : Byte) (door value : Byte) : Statement (.restraint link ft door value) :=
  of_some rfl (by decide) (by decide) fun _ =>
    Nat.le_of_ble_eq_true rfl

theorem sealCondition (link : Link) (ft : Byte) (door value : Byte) : Statement (.sealCondition link ft door value) :=
  of_some rfl (by decide) (by decide) fun _ =>
    Nat.le_of_ble_eq_true rfl

theorem doorPosition (link : Link) (ft : Byte) (door value : Byte) : Statement (.doorPosition link ft door value) :=
  of_some rfl (by decide) (by decide) fun _ =>
    Nat.le_of_ble_eq_true rfl

theorem doorService (link : Link) (ft : Byte) (door value : Byte) : Statement (.doorService link ft door value) :=
  of_some rfl (by decide) (by decide) fun _ =>
    Nat.le_of_ble_eq_true rfl

theorem openRequest (link : Link) (ft : Byte) (door : Byte) : Statement (.openRequest link ft door) :=
  of_some rfl (by decide) (by decide) fun _ =>
    Nat.le_of_ble_eq_true rfl

theorem openCancel (link : Link) (ft : Byte) (door : Byte) : Statement (.openCancel link ft door) :=
  of_some rfl (by decide) (by decide) fun _ =>
    Nat.le_of_ble_eq_true rfl

theorem registerPallet (link : Link) (ft : Byte) (tag : Word32) (cls : Byte) (loc : RawLoc) (budget : Option Word32) :
    Statement (.registerPallet link ft tag cls loc budget) := by
  cases budget <;> exact of_some rfl (by decide) (by decide) fun _ => Nat.le_of_ble_eq_true rfl

theorem removePallet (link : Link) (ft : Byte) (tag : Word32) : Statement (.removePallet link ft tag) :=
  of_some rfl (by decide) (by decide) fun _ =>
    Nat.le_of_ble_eq_true rfl

theorem enqueueMove (link : Link) (ft : Byte) (tag : Word32) (dest : RawLoc) :
    Statement (.enqueueMove link ft tag dest) :=
  of_some rfl (by decide) (by decide) fun _ =>
    Nat.le_of_ble_eq_true rfl

theorem cancelMove (link : Link) (ft : Byte) (tag : Word32) : Statement (.cancelMove link ft tag) :=
  of_some rfl (by decide) (by decide) fun _ =>
    Nat.le_of_ble_eq_true rfl

theorem picked (link : Link) (ft : Byte) (tag : Word32) : Statement (.picked link ft tag) :=
  of_some rfl (by decide) (by decide) fun _ =>
    Nat.le_of_ble_eq_true rfl

theorem dropped (link : Link) (ft : Byte) (tag : Word32) (loc : RawLoc) : Statement (.dropped link ft tag loc) :=
  of_some rfl (by decide) (by decide) fun _ =>
    Nat.le_of_ble_eq_true rfl

theorem setRoom (link : Link) (ft : Byte) (room : Byte) (items : List Item) : Statement (.setRoom link ft room items) :=
  of_some rfl (by decide) (by decide) fun h => by
    have := length_of_itemsOk h
    simp only [roomSettingCount, List.length_cons] at this ⊢
    omega

theorem setDoor (link : Link) (ft : Byte) (door : Byte) (items : List Item) : Statement (.setDoor link ft door items) :=
  of_some rfl (by decide) (by decide) fun h => by
    have := length_of_itemsOk h
    simp only [doorSettingCount, List.length_cons] at this ⊢
    omega

theorem setProfile (link : Link) (ft : Byte) (door : Byte) (span : Word16) (segments : List Byte) :
    Statement (.setProfile link ft door span segments) :=
  of_some rfl (by decide) (by decide) fun h => by
    have : segments.length = 8 := by simpa [Instr.wellFormed, segmentsOk] using h
    simp [bytes16, this]

theorem setCoil (link : Link) (ft : Byte) (coil : Byte) (items : List Item) : Statement (.setCoil link ft coil items) :=
  of_some rfl (by decide) (by decide) fun h => by
    have := length_of_itemsOk h
    simp only [coilSettingCount, List.length_cons] at this ⊢
    omega

theorem setPlant (link : Link) (ft : Byte) (items : List Item) : Statement (.setPlant link ft items) :=
  of_some rfl (by decide) (by decide) fun h => by
    have := length_of_itemsOk h
    simp only [plantSettingCount] at this
    omega

theorem setFloor (link : Link) (ft : Byte) (items : List Item) : Statement (.setFloor link ft items) :=
  of_some rfl (by decide) (by decide) fun h => by
    have := length_of_itemsOk h
    simp only [floorSettingCount] at this
    omega

theorem setTrucks (link : Link) (ft : Byte) (limit : Byte) : Statement (.setTrucks link ft limit) :=
  of_some rfl (by decide) (by decide) fun _ =>
    Nat.le_of_ble_eq_true rfl

theorem setClass (link : Link) (ft : Byte) (cls : Byte) (items : List Item) : Statement (.setClass link ft cls items) :=
  of_some rfl (by decide) (by decide) fun h => by
    have := length_of_itemsOk h
    simp only [classSettingCount, List.length_cons] at this ⊢
    omega

theorem setRoute (link : Link) (ft : Byte) (kind : Byte) (items : List Item) :
    Statement (.setRoute link ft kind items) :=
  of_some rfl (by decide) (by decide) fun h => by
    have := length_of_itemsOk h
    simp only [routeSettingCount, List.length_cons] at this ⊢
    omega

theorem lock (link : Link) (ft : Byte) (group : Byte) : Statement (.lock link ft group) :=
  of_some rfl (by decide) (by decide) fun _ =>
    Nat.le_of_ble_eq_true rfl

theorem readRoom (link : Link) (ft : Byte) (room : Byte) : Statement (.readRoom link ft room) :=
  of_some rfl (by decide) (by decide) fun _ =>
    Nat.le_of_ble_eq_true rfl

theorem readDoor (link : Link) (ft : Byte) (door : Byte) : Statement (.readDoor link ft door) :=
  of_some rfl (by decide) (by decide) fun _ =>
    Nat.le_of_ble_eq_true rfl

theorem readCoil (link : Link) (ft : Byte) (coil : Byte) : Statement (.readCoil link ft coil) :=
  of_some rfl (by decide) (by decide) fun _ =>
    Nat.le_of_ble_eq_true rfl

theorem readPallet (link : Link) (ft : Byte) (tag : Word32) : Statement (.readPallet link ft tag) :=
  of_some rfl (by decide) (by decide) fun _ =>
    Nat.le_of_ble_eq_true rfl

theorem readMoves (link : Link) (ft : Byte) (index : Byte) : Statement (.readMoves link ft index) :=
  of_some rfl (by decide) (by decide) fun _ =>
    Nat.le_of_ble_eq_true rfl

theorem readAlarms (link : Link) (ft : Byte) (index : Byte) : Statement (.readAlarms link ft index) :=
  of_some rfl (by decide) (by decide) fun _ =>
    Nat.le_of_ble_eq_true rfl

theorem readStatus (link : Link) (ft : Byte) : Statement (.readStatus link ft) :=
  of_some rfl (by decide) (by decide) fun _ =>
    Nat.le_of_ble_eq_true rfl

theorem readChanges (link : Link) (ft : Byte) : Statement (.readChanges link ft) :=
  of_some rfl (by decide) (by decide) fun _ =>
    Nat.le_of_ble_eq_true rfl

theorem readSettings (link : Link) (ft : Byte) (group object : Byte) : Statement (.readSettings link ft group object) :=
  of_some rfl (by decide) (by decide) fun _ =>
    Nat.le_of_ble_eq_true rfl

theorem acknowledge (link : Link) (ft : Byte) (code : Byte) : Statement (.acknowledge link ft code) :=
  of_some rfl (by decide) (by decide) fun _ =>
    Nat.le_of_ble_eq_true rfl

theorem setClock (link : Link) (ft : Byte) (day : Word16) (second : Word32) :
    Statement (.setClock link ft day second) :=
  of_some rfl (by decide) (by decide) fun _ =>
    Nat.le_of_ble_eq_true rfl

theorem restart (link : Link) (ft : Byte) : Statement (.restart link ft) :=
  of_some rfl (by decide) (by decide) fun _ =>
    Nat.le_of_ble_eq_true rfl

theorem commission (link : Link) (ft : Byte) : Statement (.commission link ft) :=
  of_some rfl (by decide) (by decide) fun _ =>
    Nat.le_of_ble_eq_true rfl

theorem frameDiscard (link : Link) : Statement (.frameDiscard link) := of_none rfl

theorem frameGap (link : Link) : Statement (.frameGap link) := of_none rfl

theorem characterError (link : Link) : Statement (.characterError link) := of_none rfl

theorem frameSent (link : Link) : Statement (.frameSent link) := of_none rfl

theorem characterReceived (link : Link) (char : Byte) : Statement (.characterReceived link char) := of_none rfl

end Sys2Proof.Laws.RequestKind
end

