-- ==== Sys2Proof/Tests/Slice0.lean ====
section
/-! SUPPORT. Tests of the model, each about one command on a small state, and the witnesses that the hypotheses of the
statements can be met. Expected results come from the spec: its worked examples and sequences where a test names one,
else its rule worked by hand. -/

namespace Sys2Proof.Tests

open Sys2Proof.Machine

/-! ### Bodies that the layouts exclude (R162, R184) -/

/-- A number of items, whatever they carry. -/
def someItems (n : Nat) : List Item := List.replicate n ⟨1, 1⟩

theorem test_set_room_takes_1_to_12_items :
    [0, 1, 12, 13].map (fun n => (Instr.setRoom .plant 0 0 (someItems n)).wellFormed) =
      [false, true, true, false] := by decide

theorem test_set_door_takes_1_to_5_items :
    [0, 1, 5, 6].map (fun n => (Instr.setDoor .dock 0 0 (someItems n)).wellFormed) =
      [false, true, true, false] := by decide

theorem test_set_coil_takes_1_to_6_items :
    [0, 1, 6, 7].map (fun n => (Instr.setCoil .plant 0 0 (someItems n)).wellFormed) =
      [false, true, true, false] := by decide

theorem test_set_plant_takes_1_to_6_items :
    [0, 1, 6, 7].map (fun n => (Instr.setPlant .plant 0 (someItems n)).wellFormed) =
      [false, true, true, false] := by decide

theorem test_set_floor_takes_1_to_8_items :
    [0, 1, 8, 9].map (fun n => (Instr.setFloor .floor 0 (someItems n)).wellFormed) =
      [false, true, true, false] := by decide

theorem test_set_class_takes_1_to_2_items :
    [0, 1, 2, 3].map (fun n => (Instr.setClass .floor 0 0 (someItems n)).wellFormed) =
      [false, true, true, false] := by decide

theorem test_set_route_takes_1_to_5_items :
    [0, 1, 5, 6].map (fun n => (Instr.setRoute .dock 0 1 (someItems n)).wellFormed) =
      [false, true, true, false] := by decide

theorem test_set_profile_takes_8_segments :
    [0, 7, 8, 9].map (fun n => (Instr.setProfile .dock 0 0 30 (List.replicate n 0)).wellFormed) =
      [false, false, true, false] := by decide

/-! ### Bodies written out byte by byte from R182 to R184 -/

/-- −145 tenths is 0xFF6F in two bytes. -/
theorem test_body_temperature_sample :
    parseRequest .plant 0x01 0x2A [3, 0, 0xFF, 0x6F] = some (.temperatureSample .plant 0x2A 3 0 (-145)) := by decide

/-- Coil 5, both values: an interval of 480 is 0x01E0, a defrost max of 30 is 0x1E. -/
theorem test_body_stage_coil_timing :
    parseRequest .plant 0x04 1 [5, 3, 0x01, 0xE0, 0x1E] = some (.stageCoilTiming .plant 1 5 3 480 30) := by decide

/-- Door 6 with no reading, and with a reading of +100, 0x0064. -/
theorem test_body_trailer_arrived :
    parseRequest .dock 0x07 1 [6] = some (.trailerArrived .dock 1 6 none) ∧
    parseRequest .dock 0x07 1 [6, 0x00, 0x64] = some (.trailerArrived .dock 1 6 (some 100)) := by decide

/-- Tag 7301 is 0x00001C85; FROZEN is 1; ROOM 4 is 0, 4; a budget of 24,000 is 0x00005DC0. -/
theorem test_body_register_pallet :
    parseRequest .floor 0x0F 1 [0, 0, 0x1C, 0x85, 1, 0, 4] =
      some (.registerPallet .floor 1 7301 1 ⟨0, 4⟩ none) ∧
    parseRequest .floor 0x0F 1 [0, 0, 0x1C, 0x85, 1, 0, 4, 0, 0, 0x5D, 0xC0] =
      some (.registerPallet .floor 1 7301 1 ⟨0, 4⟩ (some 24000)) := by decide

/-- Tag 7301 to TRAILER 5. -/
theorem test_body_enqueue_move :
    parseRequest .floor 0x11 1 [0, 0, 0x1C, 0x85, 1, 5] = some (.enqueueMove .floor 1 7301 ⟨1, 5⟩) := by decide

/-- Room 2, alarm limit −150, which is 0xFFFFFF6A in four bytes. -/
theorem test_body_set_room :
    parseRequest .plant 0x15 1 [2, 3, 0xFF, 0xFF, 0xFF, 0x6A] =
      some (.setRoom .plant 1 2 [⟨3, -150⟩]) := by decide

/-- Door 3, a span of 30, and eight segments; −2 is 0x82. -/
theorem test_body_set_profile :
    parseRequest .dock 0x17 1 [3, 0, 30, 0, 2, 4, 8, 10, 12, 12, 0x82] =
      some (.setProfile .dock 1 3 30 [0, 2, 4, 8, 10, 12, 12, 0x82]) ∧
    segments? [0, 2, 4, 8, 10, 12, 12, 0x82] = some #v[0, 2, 4, 8, 10, 12, 12, -2] := by decide

/-- Slot limit 2 and defer limit 120: two items without an object byte. -/
theorem test_body_set_plant :
    parseRequest .plant 0x19 1 [1, 0, 0, 0, 2, 4, 0, 0, 0, 120] =
      some (.setPlant .plant 1 [⟨1, 2⟩, ⟨4, 120⟩]) := by decide

/-- Day 258 is 0x0102; second 86,399 is 0x0001517F. -/
theorem test_body_set_clock :
    parseRequest .plant 0x29 1 [1, 2, 0, 1, 0x51, 0x7F] = some (.setClock .plant 1 258 86399) := by decide

/-- A body too short, a body too long, and a message kind that names no request. -/
theorem test_body_of_no_request :
    parseRequest .plant 0x02 1 [] = none ∧ parseRequest .plant 0x2A 1 [0] = none ∧
    parseRequest .plant 0x2C 1 [] = none ∧ parseRequest .plant 0x15 1 [2] = none := by decide

/-- The opcode table gives no row any bits. -/
theorem test_no_word_spells_a_command :
    decodeTableWord 0 0 = none ∧ (State.reset.withFetchWord 8 0x25).pending = [] := by decide

/-! ### Frames -/

/-- The check value of R161: the CRC of "123456789". -/
theorem test_crc_check_value :
    crc16 [0x31, 0x32, 0x33, 0x34, 0x35, 0x36, 0x37, 0x38, 0x39] = 0x29B1#16 := by decide +kernel

/-- READ STATUS with frame tag 7, its CRC computed apart from the model. -/
theorem test_frame_of_read_status :
    frameBytes kindRequest 0x25 7 [] = [0xC3, 3, 1, 0x25, 7, 0xA1, 0xD8] := by decide +kernel

/-- COIL TERMINATED for coil 5 with frame tag 16 on the plant link; one CRC bit wrong, and a frame of another kind. -/
theorem test_frame_taken_and_discarded :
    frameRequest .plant [4, 1, 2, 16, 5, 0xD3, 0x08] = some (.coilTerminated .plant 16 5) ∧
    frameRequest .plant [4, 1, 2, 16, 5, 0xD3, 0x09] = none ∧
    frameRequest .plant [4, 2, 2, 16, 5, 0x48, 0xD4] = none := by decide +kernel

/-! ### Small states -/

/-- A part in RUN at pin-reset settings, but every door opens into room 0, every coil is of room 1, and room 0 is the
transit room. -/
def runPart : Part :=
  { Part.reset with store := { Store.reset with
      mode := .run
      doors := Vector.replicate 16 { innerRoom := some 0 }
      coils := Vector.replicate 12 { room := some 1 }
      floor := { transitRoom := some 0 } } }

/-- A part with nothing waiting. -/
def stateOf (p : Part) : State := ⟨p, []⟩

/-- The part at a number of run seconds. -/
def atSecond (p : Part) (n : Nat) : Part := { p with time := { p.time with runSeconds := n } }

/-- The part after a command. -/
def after (p : Part) (i : Instr) : Part := ((stateOf p).taking i).part

/-- The answer code on a link's line (R164): the fourth byte after the length. -/
def answerOn (p : Part) (l : Link) : Option Byte := (p.link l).sending.bind (·[5]?)

/-- A door whose trailer is present, restraint engaged and seals GOOD. -/
def dockedDoor (state : DoorState) : Door :=
  { state := state, trailer := true, engaged := true, rawSeal := .good, qualSeal := .good }

/-- A door in OPEN since some run second, by a grant at F 0. -/
def openDoor (start : Nat) : Door :=
  { dockedDoor .opened with isOpen := true, openStart := some start, captured := some 0 }

/-- A FROZEN pallet. -/
def pallet (t : Tag) (loc : Loc) (live : Bool) : Pallet :=
  { tag := t, cls := .frozen, loc := loc, exposure := 0, budget := 24000, breached := false, live := live,
    stamp := 0, lastTemp := none }

/-- A move with no lane and no reservation. -/
def move (t : Tag) (source dest : Loc) (state : MoveState) : Move :=
  { tag := t, source := source, dest := dest, direction := directionOf source, state := state, enqueueStamp := 0,
    stateStamp := 0, pickSeconds := 0, lanes := [], reservation := none, recalls := 0 }

/-- Doors 4 and 5 are OPEN, door 6 is WAITING behind room 0's hold, which coil 0 sets in ARMED; coil 1 is DUE. Move 1
is RELEASED from TRAILER 4 to ROOM 2, move 2 PICKED on its way to TRAILER 5, move 3 QUEUED from ROOM 2 to ROOM 3,
which is full; pallet 4 stands breached there, with its alarm. -/
def rich : Part :=
  let p := ((runPart.setCoilSet 0 { room := some 0 }).setRoomSet 2 { capacity := 10 }).setRoomSet 3 { capacity := 1 }
  let p := ((p.updDoor 4 fun _ => { openDoor 0 with lane := some 1 }).updDoor 5 fun _ =>
    { openDoor 0 with lane := some 2 }).updDoor 6 fun _ => dockedDoor .waiting
  let p := ((p.updRoom 0 fun x => { x with hold := true, openDoors := 2, granted := 2, queue := [6] }).updRoom 2
    fun x => { x with occupancy := 1, reservations := 1 }).updRoom 3 fun x => { x with occupancy := 1 }
  let p := (p.updCoil 0 fun x => { x with phase := .armed, slot := true, dueStamp := some 0 }).updCoil 1 fun x =>
    { x with phase := .due, dueStamp := some 0 }
  { p with
    due := [1]
    pallets := [pallet 1 (.trailer 4) true, pallet 2 .transit true, pallet 3 (.room 2) true,
      { pallet 4 (.room 3) false with exposure := 24000, breached := true }]
    moves := [{ move 1 (.trailer 4) (.room 2) .released with lanes := [4], reservation := some 2 },
      { move 2 (.room 2) (.trailer 5) .picked with lanes := [5] }, move 3 (.room 2) (.room 3) .queued]
    trucks := 2
    dirRun := { dir := some .inbound, len := 1 }
    alarms := [{ kind := .palletBreach, object := 4, stamp := 0, repeats := 1, cond := none }] }

/-! ### The reset pin and the time base -/

theorem test_pin_reset : after rich .pinReset = Part.reset := by decide

theorem test_step_takes_the_front_and_idles :
    step ⟨runPart, [.readStatus .plant 1, .pinReset]⟩ =
      exec (.readStatus .plant 1) ⟨runPart, [.pinReset]⟩ ∧
    step (stateOf runPart) = .next (stateOf runPart) := ⟨rfl, rfl⟩

/-- R2, R3: the second of day and the day both wrap, and run second 60 issues a tick and a minute event. -/
theorem test_second_event_wraps_the_clock :
    (after { Part.reset with time := ⟨59, 65535, 86399, false, false⟩ } .secondEvent).time =
      ⟨60, 0, 0, true, true⟩ := by decide +kernel

/-- 02, A granted opening with a seal breach: the fifth second event takes the seal and the door is in BREACH. -/
theorem test_second_event_qualifies_a_seal :
    let p := runPart.updDoor 3 fun _ => { openDoor 0 with rawSeal := .lost, sealCount := 4 }
    let q := after p .secondEvent
    ((q.door 3).state, (q.door 3).qualSeal, (q.door 3).sealCount, (q.door 3).cause) =
      (.breach, .lost, 0, some .sealLoss) := by decide +kernel

/-- R17: F −140 over an alarm limit of −150 adds 10 at a tick. -/
theorem test_exposure_tick_at_a_room :
    let p := runPart.updRoom 2 fun x => { x with seeded := true, f16 := -2240, f := -140, exposure := 7 }
    let q := after { p with time := { p.time with tickIssued := true } } .exposureTick
    ((q.room 2).exposure, (q.room 1).exposure, q.time.tickIssued) = (17, 0, false) := by decide +kernel

/-- 12, A cross-dock move: +30 in TRANSIT over a limit of −180 adds 210 to 1,200 at a tick. -/
theorem test_exposure_tick_at_a_pallet :
    let p := (runPart.updRoom 0 fun x => { x with seeded := true, f16 := 320, f := 20 }).setFloorSet
      { transitRoom := some 0, transitOffset := 10 }
    let p := { p with pallets := [{ pallet 4107 .transit true with exposure := 1200 }],
                      time := { p.time with tickIssued := true } }
    ((after p .exposureTick).pallets.map fun x => (x.exposure, x.lastTemp)) = [(1410, some 30)] := by decide +kernel

/-- 04, One coil through a whole cycle, row 36,000: the interval is reached, the slot granted, the door still open. -/
theorem test_minute_event_arms_a_coil :
    let p := ((runPart.updCoil 5 fun x => { x with phase := .cooling, phaseMinutes := 479 }).updRoom 1 fun x =>
      { x with openDoors := 1 })
    let q := after { p with time := { p.time with minuteIssued := true } } .minuteEvent
    ((q.coil 5).phase, (q.coil 5).phaseMinutes, (q.coil 5).slot, (q.room 1).hold, q.due) =
      (.armed, 0, true, true, []) := by decide +kernel

/-! ### Steps inside other steps -/

def stalePart : Part := runPart.updRoom 1 fun x => { x with staleCount := 300 }

theorem test_room_sensor_stale :
    let q := after stalePart (.roomSensorStale 1)
    ((q.room 1).stale, (q.change .floor).rooms) = (true, 0b00000010#8) := by decide

/-- R14: raw at −140 over −150, the counter at its qualify time of 120. -/
def overTempPart : Part :=
  runPart.updRoom 1 fun x => { x with seeded := true, f16 := -2240, f := -140, qualifyCount := 120 }

theorem test_room_over_temp :
    let q := after overTempPart (.roomOverTemp 1)
    ((q.room 1).declared, (q.room 1).qualifyCount) = (true, 0) := by decide

/-- R16: a coil of the room in RECOVER keeps the declaration back. -/
theorem test_room_over_temp_is_suppressed :
    ((after (overTempPart.updCoil 7 fun x => { x with phase := .recover }) (.roomOverTemp 1)).room 1).declared =
      false := by decide

def exposedPart : Part := runPart.updRoom 1 fun x => { x with seeded := true, exposure := 36000 }

theorem test_room_exposure : ((after exposedPart (.roomExposure 1)).room 1).reached = true := by decide

/-- A door whose raw seal has differed from its qualified seal for the seal qualify time of 5 s. -/
def qualifyPart (state : DoorState) (raw qualified : Seal) : Part :=
  runPart.updDoor 3 fun _ => { openDoor 0 with state := state, rawSeal := raw, qualSeal := qualified, sealCount := 5 }

theorem test_seal_qualification :
    ((after (qualifyPart .docked .good .lost) (.sealQualification 3)).door 3).state = .sealed ∧
    ((after (qualifyPart .opened .lost .good) (.sealQualification 3)).door 3).cause = some .sealLoss := by decide

/-- Open since 10, at run second 610 of an open limit of 600, with auto-close on. -/
def longPart : Part :=
  (atSecond (runPart.updDoor 3 fun _ => openDoor 10) 610).setDoorSet 3 { innerRoom := some 0, autoClose := true }

/-- R43, R44: the flag is set and, the lane being empty, the order goes out at once. -/
theorem test_door_open_long :
    let q := after longPart (.doorOpenLong 3)
    ((q.door 3).openLong, (q.door 3).sent, (q.link .dock).sending.isSome) = (true, true, true) := by decide

def coilPart (x : Coil) : Part := runPart.updCoil 5 fun _ => x

theorem test_cooling_interval :
    let q := after (coilPart { phase := .cooling, phaseMinutes := 480 }) (.coolingInterval 5)
    ((q.coil 5).phase, (q.coil 5).dueStamp) = (.defrost, some 0) := by decide

theorem test_defrost_overrun :
    let q := after (coilPart { phase := .defrost, phaseMinutes := 30, slot := true }) (.defrostOverrun 5)
    ((q.coil 5).phase, (q.coil 5).lastStop, (q.coil 5).slot) = (.drip, some .overrun, true) := by decide

theorem test_drip_end :
    let q := after ((coilPart { phase := .drip, phaseMinutes := 5, slot := true }).updRoom 1 fun x =>
      { x with hold := true }) (.dripEnd 5)
    ((q.coil 5).phase, (q.coil 5).slot, (q.room 1).hold) = (.recover, false, false) := by decide

/-- R72: the staged interval is applied at the entry of COOLING. -/
theorem test_recovery_fail :
    let q := after (coilPart { phase := .recover, phaseMinutes := 30, stagedInterval := some 600 }) (.recoveryFail 5)
    ((q.coil 5).phase, (q.coilSet 5).interval, (q.coil 5).stagedInterval) = (.cooling, 600, none) := by decide

/-- A part whose route of a kind is unmasked. -/
def unmask (p : Part) (k : Kind) : Part := p.setRoute k { p.route k with masked := false }

theorem test_defrost_deferred :
    ((after (unmask (coilPart { phase := .due, waitMinutes := 120 }) .defrostDeferred) (.defrostDeferred 5)).alarms.map
      fun a => (a.kind, a.object, a.cond)) = [(.defrostDeferred, 5, some true)] := by decide

theorem test_defrost_blocked :
    ((after (unmask (coilPart { phase := .armed, armMinutes := 15 }) .defrostBlocked) (.defrostBlocked 5)).alarms.map
      fun a => (a.kind, a.object, a.cond)) = [(.defrostBlocked, 5, some true)] := by decide

/-- Move 1 of the rich part at its pick limit, its pallet breached or not, and its destination. -/
def timedOut (breached : Bool) : Part :=
  (rich.updMove 1 fun m => { m with pickSeconds := 300 }).updPallet 1 fun x =>
    { x with breached := breached, exposure := if breached then 24000 else 0 }

theorem test_pick_timeout :
    let q := after (timedOut false) (.pickTimeout 1)
    ((q.move? 1).map fun m => (m.state, m.recalls, m.lanes)) = some (.queued, 1, []) ∧
    ((q.door 4).lane, (q.room 2).reservations, q.trucks) = (none, 0, 1) := by decide

theorem test_transit_long :
    ((after (unmask (atSecond rich 600) .transitLong) (.transitLong 2)).alarms.map fun a => (a.kind, a.object)) =
      [(.palletBreach, 4), (.transitLong, 2)] := by decide

theorem test_move_stalled :
    ((after (unmask (atSecond rich 1800) .moveStalled) (.moveStalled 3)).alarms.map fun a => (a.kind, a.object)) =
      [(.palletBreach, 4), (.moveStalled, 3)] := by decide

/-- A pallet at its budget: 3 is QUEUED from ROOM 2 to ROOM 3, 2 is PICKED. -/
def overBudget (t : Tag) : Part := rich.updPallet t fun x => { x with exposure := 24000 }

/-- 12, A pallet breaching at an open trailer: a QUEUED move bound elsewhere is aborted. -/
theorem test_pallet_breach :
    let q := after (overBudget 3) (.palletBreach 3)
    (q.move? 3, (q.pallet? 3).map fun x => (x.breached, x.live)) = (none, some (true, false)) := by decide

/-- Door 6 waits; the hold of room 0 is clear and the budget leaves one grant. -/
def grantPart : Part :=
  (rich.updRoom 0 fun x => { x with hold := false, granted := 1 }).updCoil 0 fun _ => {}

theorem test_door_grant :
    let q := after grantPart (.doorGrant 0)
    ((q.door 6).state, (q.room 0).queue, (q.room 0).granted, (q.room 0).openDoors) = (.opened, [], 2, 3) := by decide

/-- Coil 1 is DUE and the slot is free. -/
def slotPart : Part := rich.updCoil 0 fun x => { x with phase := .recover, slot := false }

theorem test_slot_grant :
    let q := after slotPart .slotGrant
    (q.due, (q.coil 1).phase, (q.room 1).hold) = ([], .defrost, true) := by decide

def entryPart : Part := coilPart { phase := .armed, slot := true, stagedMax := some 45 }

theorem test_defrost_entry :
    let q := after entryPart (.defrostEntry 5)
    ((q.coil 5).phase, (q.coilSet 5).defrostMax, (q.coil 5).stagedMax) = (.defrost, 45, none) := by decide

/-- 07, Direction share with a blocked move: the run of INBOUND has reached its share of 3, and the OTHER move is
behind an INBOUND one. -/
def sharePart (len : Nat) : Part :=
  let p := (runPart.setRoomSet 5 { capacity := 10 }).setRoomSet 1 { capacity := 10 }
  let p := ((p.updDoor 6 fun _ => openDoor 0).updDoor 9 fun _ => openDoor 0).updRoom 0 fun x =>
    { x with openDoors := 2, granted := 2 }
  { p with
    moves := [move 44 (.trailer 6) (.room 5) .queued, move 45 (.room 1) (.trailer 9) .queued]
    pallets := [pallet 44 (.trailer 6) true, pallet 45 (.room 1) true]
    dirRun := { dir := some .inbound, len := len } }

theorem test_move_release_at_the_share :
    let q := after (sharePart 3) .moveRelease
    (q.moves.map (·.state), q.dirRun, (q.door 9).lane) = ([.queued, .released], ⟨some .other, 1⟩, some 45) :=
      by decide

theorem test_move_release_below_the_share :
    let q := after (sharePart 2) .moveRelease
    (q.moves.map (·.state), q.dirRun, (q.room 5).reservations) =
      ([.released, .queued], ⟨some .inbound, 3⟩, 1) := by decide

/-- An owed order on an empty lane. -/
def owedPart : Part := runPart.updDoor 3 fun _ => { openDoor 0 with owed := some .defrost }

theorem test_close_order :
    let q := after owedPart (.closeOrder 3)
    ((q.door 3).owed, (q.door 3).sent, (q.link .dock).sending.isSome) = (none, true, true) := by decide

/-! ### Requests of the plant link -/

/-- 01, A filter settling on a step, the first sample. -/
theorem test_sample_steps_the_filter :
    let p := (runPart.setRoomSet 2 { sampleOffset := 5 }).updRoom 2 fun x =>
      { x with seeded := true, f16 := -2880, f := -180 }
    let q := after p (.temperatureSample .plant 1 2 0 (-150))
    ((q.room 2).f16, (q.room 2).f, (q.room 2).last, answerOn q .plant) =
      (-2740, -171, .value (-150), some 0x00#8) := by decide

/-- R10, R11: an unseeded room takes the corrected value whole, clamped at −500. -/
theorem test_sample_seeds_and_clamps :
    let q := after (runPart.setRoomSet 2 { sampleOffset := -50 }) (.temperatureSample .plant 1 2 0 (-490))
    ((q.room 2).f16, (q.room 2).f, (q.room 2).clamped, (q.room 2).seeded) = (-8000, -500, true, true) := by decide

/-- 04, One coil through a whole cycle, row 37,090. -/
theorem test_coil_terminated :
    let q := after (coilPart { phase := .defrost, phaseMinutes := 17, slot := true }) (.coilTerminated .plant 1 5)
    ((q.coil 5).phase, (q.coil 5).lastStop, (q.coil 5).slot, answerOn q .plant) =
      (.drip, some .terminated, true, some 0x00#8) := by decide

theorem test_demand_defrost :
    ((after (atSecond runPart 77) (.demandDefrost .plant 1 5)).coil 5).dueStamp = some 77 ∧
    answerOn (after (coilPart { phase := .off }) (.demandDefrost .plant 1 5)) .plant = some 0x09#8 := by decide

/-- R71: an interval of 29 is out of range, of 30 in it; the value in force stays. -/
theorem test_stage_coil_timing :
    let q := after runPart (.stageCoilTiming .plant 1 5 1 30 0)
    ((q.coil 5).stagedInterval, (q.coil 5).stagedMax, (q.coilSet 5).interval) = (some 30, none, 480) ∧
    answerOn (after runPart (.stageCoilTiming .plant 1 5 1 29 0)) .plant = some 0x05#8 := by decide

theorem test_coil_service :
    ((after runPart (.coilService .plant 1 5 1)).coil 5).phase = .off ∧
    ((after (coilPart { phase := .off }) (.coilService .plant 1 5 0)).coil 5).phase = .cooling := by decide

theorem test_reset_room_exposure :
    let q := after (exposedPart.updRoom 1 fun x => { x with reached := true }) (.resetRoomExposure .plant 1 1)
    ((q.room 1).exposure, (q.room 1).reached) = (0, false) ∧
    answerOn (after exposedPart (.resetRoomExposure .floor 1 1)) .floor = some 0x03#8 := by decide

/-! ### Requests of the dock link -/

/-- R32: a reading of +600 is held at +500. -/
theorem test_trailer_arrived :
    let q := after (runPart.updDoor 3 fun x => { x with engaged := true, qualSeal := .good })
      (.trailerArrived .dock 1 3 (some 600))
    ((q.door 3).state, (q.door 3).reading) = (.sealed, some 500) := by decide

/-- R33, R113, R135: the pallet at TRAILER 4 is shipped and the RELEASED move from it aborted. -/
theorem test_trailer_left :
    let q := after rich (.trailerLeft .dock 1 4)
    ((q.door 4).state, (q.door 4).cause, q.pallets.map (·.tag), q.moves.map (·.tag)) =
      (.breach, some .trailer, [2, 3, 4], [2, 3]) := by decide

theorem test_restraint :
    ((after (runPart.updDoor 3 fun _ => dockedDoor .sealed) (.restraint .dock 1 3 0)).door 3).state = .docked ∧
    ((after (runPart.updDoor 3 fun _ => openDoor 0) (.restraint .dock 1 3 0)).door 3).state = .breach := by decide

theorem test_seal_condition :
    let q := after (runPart.updDoor 3 fun _ => { dockedDoor .sealed with sealCount := 3 }) (.sealCondition .dock 1 3 0)
    ((q.door 3).rawSeal, (q.door 3).qualSeal, (q.door 3).sealCount, (q.door 3).state) =
      (.lost, .good, 0, .sealed) := by decide

/-- 12, A seal breach under a released move, row 30,200, on a door in OPEN: the closing ends a granted opening. -/
theorem test_door_position_closed :
    let p := atSecond ((runPart.updDoor 4 fun _ => { openDoor 29950 with captured := some (-150) }).updRoom 0 fun x =>
      { x with f := -150, openDoors := 1, granted := 1 }) 30200
    let q := after p (.doorPosition .dock 1 4 0)
    ((q.door 4).state, (q.door 4).lastOpen, (q.room 0).openDoors, (q.room 0).granted) =
      (.sealed, some ⟨250, some 0⟩, 0, 0) := by decide

/-- 12, Shared-code alarms: the breach joins the list before the forced opening. -/
theorem test_door_position_forced :
    let q := after (unmask (unmask runPart .doorSealLost) .doorForced) (.doorPosition .dock 1 3 1)
    ((q.door 3).state, (q.door 3).cause) = (.breach, some .forced) ∧
    (q.alarms.map fun a => (kindNumber a.kind, a.object, a.repeats, a.cond)) =
      [(2, 3, 1, some true), (3, 3, 1, none)] := by decide

theorem test_door_service :
    ((after runPart (.doorService .dock 1 3 1)).door 3).state = .service ∧
    answerOn (after (runPart.updDoor 3 fun _ => dockedDoor .sealed) (.doorService .dock 1 3 1)) .dock =
      some 0x09#8 := by decide

/-- 09, A request granted in its own taking: the answer is on the line and OPEN PERMIT waits behind it. -/
theorem test_open_request_is_granted :
    let q := after (runPart.updDoor 9 fun _ => dockedDoor .sealed) (.openRequest .dock 17 9)
    ((q.door 9).state, (q.link .dock).notices, (q.link .dock).sending.map fun b => b.take 8) =
      (.opened, [.openPermit 9 (some 0)], some [0xC3, 6, 2, 0x0D, 17, 0, 4, 4]) := by decide

/-- R60: a set hold keeps the request waiting behind door 6. -/
theorem test_open_request_waits :
    let q := after (rich.updDoor 2 fun _ => dockedDoor .sealed) (.openRequest .dock 17 2)
    ((q.door 2).state, (q.room 0).queue) = (.waiting, [6, 2]) := by decide

theorem test_open_cancel :
    let q := after rich (.openCancel .dock 1 6)
    ((q.door 6).state, (q.room 0).queue) = (.sealed, []) ∧
    answerOn (after rich (.openCancel .dock 1 4)) .dock = some 0x01#8 := by decide

/-! ### Requests of the floor link -/

/-- 06, Registration and acceptance. -/
def acceptPart : Part :=
  let p := ((runPart.setRoomSet 1 { cls := .deep, capacity := 2 }).setRoomSet 4 { capacity := 40 }).setRoomSet 7
    { cls := .chilled, capacity := 5 }
  let p := (p.updRoom 1 fun x => { x with occupancy := 1, reservations := 1 }).updDoor 9 fun x =>
    { x with trailer := true }
  p.setFloorSet { transitRoom := some 0, quarantineRoom := some 7 }

theorem test_register_pallet_answers :
    ([(501, 1, ⟨0, 1⟩, none), (501, 0, ⟨0, 4⟩, none), (501, 1, ⟨0, 4⟩, none), (502, 3, ⟨1, 10⟩, none),
      (502, 3, ⟨1, 9⟩, some 0), (502, 3, ⟨1, 9⟩, none)] : List (Word32 × Byte × RawLoc × Option Word32)).map
      (fun (t, c, x, b) => answerOn (after acceptPart (.registerPallet .floor 1 t c x b)) .floor) =
    [some 0x0A#8, some 0x0A#8, some 0x00#8, some 0x0A#8, some 0x05#8, some 0x00#8] := by decide

theorem test_register_pallet_makes_a_record :
    let q := after acceptPart (.registerPallet .floor 1 501 1 ⟨0, 4⟩ none)
    (q.pallets.map fun x => (x.tag, x.budget), (q.room 4).occupancy) = ([(501, 24000)], 1) := by decide

theorem test_remove_pallet :
    let q := after rich (.removePallet .floor 1 4)
    (q.pallets.map (·.tag), (q.room 3).occupancy) = ([1, 2, 3], 0) ∧
    answerOn (after rich (.removePallet .floor 1 3)) .floor = some 0x09#8 := by decide

/-- Pallet 4 without its breach, and a queue that leaves a truck: a move to ROOM 2 is released in its own taking. -/
def orderPart (trucks : Nat) : Part :=
  { rich.updPallet 4 fun x => { x with breached := false, exposure := 0 } with trucks := trucks }

theorem test_enqueue_move :
    let q := after (orderPart 2) (.enqueueMove .floor 1 4 ⟨0, 2⟩)
    ((q.move? 4).map fun m => (m.state, m.reservation), (q.room 2).reservations) =
      (some (.released, some 2), 2) := by decide

/-- 12, A pallet breaching at an open trailer: a breached pallet is accepted by the quarantine room alone. -/
theorem test_enqueue_move_of_a_breached_pallet :
    answerOn (after rich (.enqueueMove .floor 1 4 ⟨0, 2⟩)) .floor = some 0x0A#8 := by decide

theorem test_cancel_move :
    let q := after rich (.cancelMove .floor 1 1)
    (q.moves.map (·.tag), q.trucks, (q.door 4).lane, (q.room 2).reservations) = ([2, 3], 1, none, 0) ∧
    answerOn (after rich (.cancelMove .floor 1 2)) .floor = some 0x09#8 := by decide

/-- 12, A cross-dock move, row 20,064: the source lane empties and the pallet is in TRANSIT. -/
theorem test_picked :
    let q := after (atSecond rich 20064) (.picked .floor 1 1)
    ((q.move? 1).map fun m => (m.state, m.stateStamp, m.lanes), (q.pallet? 1).map (·.loc), (q.door 4).lane) =
      (some (.picked, 20064, []), some .transit, none) := by decide

/-- 12, A cross-dock move, row 20,101. -/
theorem test_dropped :
    let q := after rich (.dropped .floor 1 2 ⟨1, 5⟩)
    (q.move? 2, (q.pallet? 2).map fun x => (x.loc, x.live), (q.door 5).lane) =
      (none, some (.trailer 5, false), none) := by decide

/-! ### Settings and locks -/

theorem test_set_room :
    let q := after Part.reset (.setRoom .floor 1 2 [⟨3, -180⟩, ⟨11, 100⟩])
    ((q.roomSet 2).alarmLimit, (q.roomSet 2).capacity, (q.roomSet 2).recoverLimit) = (-180, 100, -170) ∧
    answerOn (after runPart (.setRoom .dock 1 2 [⟨3, -180⟩])) .dock = some 0x03#8 := by decide

theorem test_set_door :
    ((after runPart (.setDoor .dock 1 3 [⟨1, 2⟩, ⟨5, 1⟩])).doorSet 3).innerRoom = some 2 ∧
    answerOn (after rich (.setDoor .dock 1 4 [⟨1, 2⟩])) .dock = some 0x09#8 := by decide

theorem test_set_profile :
    ((after runPart (.setProfile .dock 1 3 30 [0, 2, 4, 8, 10, 12, 12, 0xBF])).doorSet 3).segments =
      #v[0, 2, 4, 8, 10, 12, 12, -63] ∧
    answerOn (after runPart (.setProfile .dock 1 3 30 [0x40, 2, 4, 8, 10, 12, 12, 12])) .dock = some 0x05#8 :=
      by decide

theorem test_set_coil :
    ((after runPart (.setCoil .plant 1 5 [⟨3, 0⟩, ⟨6, 120⟩])).coilSet 5).recoverTime = 120 ∧
    answerOn (after runPart (.setCoil .plant 1 5 [⟨3, 29⟩])) .plant = some 0x05#8 := by decide

theorem test_set_plant :
    (after runPart (.setPlant .plant 1 [⟨2, 1320⟩, ⟨3, 360⟩])).store.plant.windowStart = 1320 ∧
    answerOn (after runPart (.setPlant .plant 1 [⟨2, 1320⟩, ⟨2, 360⟩])) .plant = some 0x05#8 := by decide

theorem test_set_floor :
    (after runPart (.setFloor .floor 1 [⟨3, -100⟩])).store.floor.transitOffset = -100 ∧
    answerOn (after rich (.setFloor .floor 1 [⟨4, 1⟩])) .floor = some 0x09#8 := by decide

theorem test_set_trucks :
    (after rich (.setTrucks .floor 1 2)).store.floor.truckLimit = 2 ∧
    answerOn (after rich (.setTrucks .floor 1 1)) .floor = some 0x09#8 := by decide

theorem test_set_class :
    (after Part.reset (.setClass .plant 1 1 [⟨1, -200⟩])).classRow .frozen = ⟨-200, 24000⟩ := by decide

/-- R143: an edge kind takes no LEVEL mode. -/
theorem test_set_route :
    ((after Part.reset (.setRoute .plant 1 3 [⟨1, 1⟩, ⟨5, 20⟩])).route .doorForced).code = 20 ∧
    answerOn (after Part.reset (.setRoute .plant 1 3 [⟨2, 0⟩])) .plant = some 0x05#8 := by decide

theorem test_lock :
    let q := after Part.reset (.lock .floor 1 0)
    (q.locked .room, q.locked .door) = (true, false) ∧
    answerOn (after q (.setRoom .plant 1 2 [⟨3, -180⟩])) .plant = some 0x0B#8 := by decide

/-! ### Reads, acknowledgement, clock and the two controls -/

theorem test_reads_answer_done :
    ([.readRoom .plant 1 7, .readDoor .dock 1 15, .readCoil .plant 1 11, .readPallet .plant 1 4,
      .readMoves .plant 1 0, .readAlarms .plant 1 0, .readStatus .plant 1, .readChanges .plant 1,
      .readSettings .plant 1 6 13] : List Instr).map
      (fun i => (i.onWire.bind fun (l, _) => answerOn (after rich i) l)) =
    List.replicate 9 (some 0x00#8) := by decide

theorem test_reads_of_no_object :
    ([.readRoom .plant 1 8, .readDoor .dock 1 16, .readCoil .plant 1 12, .readPallet .plant 1 9,
      .readSettings .plant 1 7 0] : List Instr).map
      (fun i => (i.onWire.bind fun (l, _) => answerOn (after rich i) l)) =
    [some 0x06#8, some 0x06#8, some 0x06#8, some 0x06#8, some 0x05#8] := by decide

theorem test_read_status_clears_resync :
    let q := after (runPart.updLink .dock fun k => { k with resync := true }) (.readStatus .dock 1)
    ((q.link .dock).resync, (q.link .dock).sending.bind (·[6]?)) = (false, some 0b101#8) := by decide

theorem test_read_changes_clears_the_set :
    (after (runPart.markDoor 3) (.readChanges .dock 1)).change .dock = {} := by decide

/-- 12, Shared-code alarms: the standing condition is notified again with repeat 2, the forced opening removed. -/
def sharedPart : Part :=
  let p := (runPart.setRoute .doorOpenLong ⟨false, .level, .dock, 4, 20⟩).setRoute
    .doorForced { masked := false, mode := .edge, ack := .dock, copies := 0, code := 20 }
  { (p.updDoor 11 fun _ => { openDoor 0 with openLong := true }) with
    alarms := [⟨.doorOpenLong, 11, 0, 1, some true⟩,
      ⟨.doorSealLost, 3, 0, 1, some true⟩, ⟨.doorForced, 3, 0, 1, none⟩] }

theorem test_acknowledge :
    let q := after sharedPart (.acknowledge .dock 1 20)
    (q.alarms.map fun a => (kindNumber a.kind, a.object, a.repeats, a.cond)) =
      [(1, 11, 2, some true), (2, 3, 1, some true)] ∧
    (q.link .dock).sending.map (fun b => (b.drop 7).take 2) = some [1, 1] ∧
    (after sharedPart (.acknowledge .floor 1 20)).alarms = sharedPart.alarms := by decide +kernel

theorem test_set_clock :
    (after runPart (.setClock .plant 1 258 86399)).time = ⟨0, 258, 86399, false, false⟩ ∧
    answerOn (after runPart (.setClock .plant 1 258 86400)) .plant = some 0x05#8 := by decide +kernel

theorem test_restart :
    let q := after rich (.restart .plant 1)
    (q.moves, q.trucks, (q.door 6).state, (q.door 4).state, q.pallets.map (·.live)) =
      ([], 0, .sealed, .opened, [false, false, false, false]) := by decide +kernel

theorem test_commission :
    (after { runPart with store := { runPart.store with mode := .setup } } (.commission .plant 1)).running = true ∧
    (after Part.reset (.commission .plant 1)).running = false ∧
    answerOn (after Part.reset (.commission .plant 1)) .plant = some 0x0C#8 := by decide +kernel

/-! ### Events of a line -/

/-- Four bytes of READ STATUS have come. -/
def assemblingPart : Part := runPart.updLink .plant fun k => { k with rx := .assembling [3, 1, 0x25, 7, 0xA1] }

theorem test_line_events_hunt :
    ([.frameDiscard .plant, .frameGap .plant, .characterError .plant] : List Instr).map
      (fun i => ((after assemblingPart i).link .plant).rx) = [.hunting, .hunting, .hunting] := by decide

/-- 09, A request granted in its own taking: when the CLOSE ORDER ends, the answer goes before the notice. -/
theorem test_frame_sent :
    let p := runPart.updLink .dock fun k => { k with
      sending := some [], answers := [⟨0x0D, 17, .done, 0, [4]⟩], notices := [.doorClosed 2 false 1 none] }
    let q := after p (.frameSent .dock)
    ((q.link .dock).answers, (q.link .dock).notices.length, answerOn q .dock) = ([], 1, some 0x00#8) := by decide

/-- The last byte of the frame above ends it, and the request is answered. -/
theorem test_character_received :
    let q := after assemblingPart (.characterReceived .plant 0xD8)
    ((q.link .plant).rx, answerOn q .plant) = (.hunting, some 0x00#8) ∧
    answerOn (after assemblingPart (.characterReceived .plant 0xD9)) .plant = none := by decide +kernel

/-! ### Witnesses: concrete states and operands that meet the hypotheses of each statement, one clause a line -/

theorem meets_StepTakesTheFrontCommand :
    (State.mk rich [.secondEvent]).pending = Instr.secondEvent :: [] ∧ (stateOf rich).pending = [] := by decide

/-- The last second before a wrap, the wrap, the last day, and SETUP. -/
theorem meets_SecondEventAdvancesTheTimeBase :
    ({ rich.time with second := 86398 }).second + 1 < 86400 ∧
    86400 ≤ ({ rich.time with second := 86399 }).second + 1 ∧
    ({ rich.time with day := 65534 }).day < 65535 ∧ Part.reset.running = false := by decide

theorem meets_SecondEventAtEveryRoom :
    rich.running = true ∧ rich.time.tickIssued = false ∧ rich.time.minuteIssued = false := by decide

theorem meets_SecondEventAtEveryDoor :
    (qualifyPart .sealed .lost .good).running = true ∧ (qualifyPart .sealed .lost .good).time.tickIssued = false ∧
    (qualifyPart .sealed .lost .good).time.minuteIssued = false ∧
    ((qualifyPart .sealed .lost .good).door 3).state ≠ .service := by decide

/-- Doors in OPEN and in BREACH whose open seconds come to 599 and to the open limit of 600 at the event, with auto-close
on: with the lane empty and held, with no order and with a DEFROST order owed, and with an order sent. -/
theorem meets_SecondEventAtEveryDoor_open :
    ∀ now ∈ [608, 609], ∀ st ∈ [DoorState.opened, .breach], ∀ lane ∈ [none, some 1],
      ∀ owed ∈ [none, some CloseReason.defrost], ∀ sent ∈ [true, false],
      let p := (atSecond longPart now).updDoor 3 fun x => { x with state := st, lane := lane, owed := owed, sent := sent }
      p.running = true ∧ p.time.tickIssued = false ∧ p.time.minuteIssued = false ∧
      p.door 3 = { openDoor 10 with state := st, lane := lane, owed := owed, sent := sent } ∧
      (p.doorSet 3).autoClose = true ∧ decide ((p.doorSet 3).openLimit ≤ now + 1 - 10) = decide (now = 609) := by
  decide

/-- A second event at which a room goes stale, a door falls into BREACH and a door comes to be open long. -/
theorem meets_SecondEvent_with_an_examination :
    let p := stalePart.updRoom 1 fun x => { x with staleCount := 299 }
    let q := qualifyPart .opened .lost .good
    let x := atSecond longPart 609
    (p.running = true ∧ p.time.tickIssued = false ∧ p.time.minuteIssued = false ∧ (p.room 1).stale = false ∧
      ((after p .secondEvent).room 1).stale = true) ∧
    ((q.updDoor 3 fun y => { y with sealCount := 4 }).running = true ∧ (q.door 3).state = .opened ∧
      ((after (q.updDoor 3 fun y => { y with sealCount := 4 }) .secondEvent).door 3).state = .breach) ∧
    x.running = true ∧ (x.door 3).openLong = false ∧ ((after x .secondEvent).door 3).openLong = true := by
  decide +kernel

/-- A part whose tick, or whose minute event, has been issued. -/
def withTick (p : Part) : Part := { p with time := { p.time with tickIssued := true } }
def withMinute (p : Part) : Part := { p with time := { p.time with minuteIssued := true } }

theorem meets_ExposureTickAtEveryAccount :
    (withTick rich).running = true ∧ (withTick rich).time.tickIssued = true ∧ (withTick rich).TablesInRange := by
  unfold Part.TablesInRange; decide

/-- A seeded room that comes to its budget with the tick, and a pallet that comes into breach with it. -/
theorem meets_ExposureTickAtEveryAccount_at_a_budget :
    let p := withTick ((rich.updRoom 1 fun x => { x with seeded := true, exposure := 35999 }).updPallet 3 fun x =>
      { x with exposure := 23999 })
    p.running = true ∧ p.time.tickIssued = true ∧ p.TablesInRange ∧
    ((p.room 1).reached = false ∧ (p.room 1).seeded = true ∧
      (p.roomSet 1).exposureBudget ≤ min 9999999 ((p.room 1).exposure +
        (clampTemp (p.room 1).f - (p.roomSet 1).alarmLimit).toNat)) ∧
    (p.pallet? 3).map (·.breached) = some false ∧
    ∃ x ∈ (after p .exposureTick).pallets, x.tag = 3 ∧ x.breached = true := by
  unfold Part.TablesInRange; decide +kernel

/-- Door 3 in OPEN at some open seconds, with a span of 30 and segments at both ends of their range. -/
def apronPart (seconds : Nat) : Part :=
  (atSecond (runPart.updDoor 3 fun _ => openDoor 0) seconds).setDoorSet 3
    { innerRoom := some 0, span := 30, segments := #v[-63, 63, 4, 8, 10, 12, 12, 14] }

/-- Segment 0 up to 29 s, segment 1 at 30 s, segment 7 from 210 s on. -/
theorem meets_LocationTemperatureWithTheApron_open :
    ((apronPart 29).door 3).state = .opened ∧
    [29, 30, 209, 210, 240].map (fun n => min 7 (((apronPart n).now - ((apronPart n).door 3).openStart.getD
      (apronPart n).now) / ((apronPart n).doorSet 3).span)) = [0, 1, 6, 7, 7] ∧
    8 * ((apronPart 240).doorSet 3).span ≤ (apronPart 240).now - ((apronPart 240).door 3).openStart.getD
      (apronPart 240).now ∧ 0 < ((apronPart 240).doorSet 3).span ∧
    ∀ i : Fin 8, -63 ≤ ((apronPart 29).doorSet 3).segments[i] ∧ ((apronPart 29).doorSet 3).segments[i] ≤ 63 := by
  decide +kernel

/-- A closed door, and the bases: a reading, an inner room, neither; a transit room, and none. -/
theorem meets_LocationTemperatureWithTheApron_base :
    (runPart.door 3).state ≠ .opened ∧ (runPart.door 3).state ≠ .breach ∧
    ((runPart.updDoor 3 fun x => { x with reading := some 500 }).door 3).reading = some 500 ∧
    (runPart.door 3).reading = none ∧ runPart.inner 3 = some 0 ∧ Part.reset.inner 3 = none ∧
    runPart.store.floor.transitRoom = some 0 ∧ Part.reset.store.floor.transitRoom = none := by decide

/-- Coil 5 with some record and some drip time, at an issued minute event. -/
def minutePart (x : Coil) (drip : Nat) : Part :=
  withMinute ((coilPart x).setCoilSet 5 { room := some 1, drip := drip })

theorem meets_MinuteEventAtATimedCoil :
    (minutePart { phase := .off } 5).running = true ∧ (minutePart { phase := .off } 5).time.minuteIssued = true ∧
    (minutePart { phase := .off } 5).time.tickIssued = false ∧ (minutePart { phase := .off } 5).DueQueueMatches := by
  unfold Part.DueQueueMatches; decide

/-- DEFROST below and at its max of 30 (drip time 1 and 0), DRIP below and at 5, RECOVER below and at 30. -/
theorem meets_MinuteEventAtATimedCoil_at_its_times :
    ∀ y ∈ ([({ phase := .defrost, phaseMinutes := 28 }, 5), ({ phase := .defrost, phaseMinutes := 29 }, 1),
        ({ phase := .defrost, phaseMinutes := 29 }, 0), ({ phase := .drip, phaseMinutes := 3 }, 5),
        ({ phase := .drip, phaseMinutes := 4 }, 5), ({ phase := .recover, phaseMinutes := 28 }, 5),
        ({ phase := .recover, phaseMinutes := 29 }, 5)] : List (Coil × Nat)),
      (minutePart y.1 y.2).DueQueueMatches ∧ ((minutePart y.1 y.2).coil 5).phaseMinutes < 65535 := by
  unfold Part.DueQueueMatches; decide

/-- COOLING below and at its interval of 480 with a slot free, and with an interval of 0. -/
theorem meets_MinuteEventAtATimedCoil_cooling :
    ∀ n ∈ [478, 479], (minutePart { phaseMinutes := n } 5).DueQueueMatches ∧
      ((minutePart { phaseMinutes := n } 5).coilSet 5).role ≠ .follow ∧
      ((minutePart { phaseMinutes := n } 5).coilSet 5).interval = 480 ∧
      (minutePart { phaseMinutes := n } 5).slotsHeld < (minutePart { phaseMinutes := n } 5).store.plant.slotLimit ∧
      (((minutePart { phaseMinutes := n } 5).setCoilSet 5 { room := some 1, interval := 0 }).coilSet 5).interval = 0 := by
  unfold Part.DueQueueMatches; decide

/-- The one slot held by coil 0 in ARMED, coil 1 in DUE, and coil 5 in COOLING at its interval and at 65535. -/
theorem meets_MinuteEventAtATimedCoil_without_a_slot :
    ∀ n ∈ [478, 479, 65535], let p := withMinute (rich.updCoil 5 fun x => { x with phaseMinutes := n })
      p.running = true ∧ p.time.minuteIssued = true ∧ p.time.tickIssued = false ∧ p.DueQueueMatches ∧
      (p.coil 0).phase = .armed ∧ (p.coil 1).phase = .due ∧ (p.coil 5).phase = .cooling ∧
      p.store.plant.slotLimit ≤ p.slotsHeld ∧ ∀ e, (p.coil e).phase ≠ .defrost ∧ (p.coil e).phase ≠ .drip := by
  unfold Part.DueQueueMatches; decide +kernel

theorem meets_InnerSteps_of_rooms :
    ((stalePart.roomSet 1).staleLimit ≤ (stalePart.room 1).staleCount ∧ (stalePart.room 1).stale = false) ∧
    ((overTempPart.roomSet 1).qualify ≠ 0 ∧ (overTempPart.roomSet 1).qualify ≤ (overTempPart.room 1).qualifyCount ∧
      (overTempPart.room 1).declared = false ∧ (overTempPart.room 1).raw (overTempPart.roomSet 1) = true ∧
      overTempPart.suppressed 1 = false) ∧
    ((exposedPart.room 1).seeded = true ∧ (exposedPart.room 1).reached = false ∧
      (exposedPart.roomSet 1).exposureBudget ≤ (exposedPart.room 1).exposure) := by decide

/-- F at the alarm limit is not above it, so that a declared room may leave its state. -/
theorem meets_InnerSteps_of_a_declared_room :
    let p := overTempPart.updRoom 1 fun x => { x with f16 := -2400, f := -150, declared := true }
    (p.roomSet 1).qualify ≤ (p.room 1).qualifyCount ∧ (p.room 1).declared = true ∧
    (p.room 1).raw (p.roomSet 1) = false := by decide

/-- A qualify time of 0: a room to declare, a suppressed one, one to leave its state, and one that agrees. -/
theorem meets_InnerSteps_without_a_qualify_time :
    let p := overTempPart.setRoomSet 1 { qualify := 0 }
    let cold := p.updRoom 1 fun x => { x with f16 := -2400, f := -150 }
    ((p.roomSet 1).qualify = 0 ∧ (p.room 1).declared = false ∧ (p.room 1).raw (p.roomSet 1) = true ∧
      p.suppressed 1 = false) ∧
    (p.updCoil 5 fun x => { x with phase := .drip }).suppressed 1 = true ∧
    (((cold.updRoom 1 fun x => { x with declared := true }).room 1).declared = true ∧
      (cold.room 1).raw (cold.roomSet 1) = false) ∧
    (cold.room 1).declared = false := by decide

theorem meets_InnerSteps_of_doors :
    ((longPart.door 3).state = .opened ∧ (longPart.door 3).openLong = false ∧
      (longPart.doorSet 3).openLimit ≤ longPart.now - (longPart.door 3).openStart.getD longPart.now) ∧
    ((owedPart.door 3).owed = some .defrost ∧ (owedPart.door 3).lane = none) := by decide +kernel

theorem meets_InnerSteps_of_moves :
    rich.running = true ∧ rich.move? 3 = some (move 3 (.room 2) (.room 3) .queued) ∧
    rich.move? 2 = some { move 2 (.room 2) (.trailer 5) .picked with lanes := [5] } := by decide

theorem meets_SealQualificationOfADoor :
    ∀ st ∈ [DoorState.vacant, .docked, .sealed, .waiting, .opened, .breach],
      ((qualifyPart st .lost .good).door 3).state ≠ .service ∧
      ((qualifyPart st .lost .good).door 3).rawSeal ≠ ((qualifyPart st .lost .good).door 3).qualSeal ∧
      ((qualifyPart st .lost .good).doorSet 3).sealQualify ≤ ((qualifyPart st .lost .good).door 3).sealCount := by
  decide

/-- The same door with a move on its lane, as it is lost in OPEN, and as it returns to a breach by the seal. -/
theorem meets_SealQualificationOfADoor_with_a_lane :
    let p := (qualifyPart .opened .lost .good).updDoor 3 fun x => { x with lane := some 7 }
    let q := (qualifyPart .breach .good .lost).updDoor 3 fun x => { x with lane := some 7, cause := some .sealLoss }
    (p.running = true ∧ (p.door 3).lane = some 7 ∧ (p.door 3).state = .opened ∧
      ((after p (.sealQualification 3)).door 3).state = .breach) ∧
    (q.running = true ∧ (q.door 3).lane = some 7 ∧ (q.door 3).state = .breach ∧
      ((after q (.sealQualification 3)).door 3).state = .opened) ∧
    (qualifyPart .waiting .lost .good).running = true ∧
    ((after (qualifyPart .waiting .lost .good) (.sealQualification 3)).door 3).state ≠ .waiting := by decide +kernel

/-- Each timer at its limit. -/
theorem meets_CoilTimerSteps :
    (coilPart { phase := .cooling, phaseMinutes := 480 }).DueQueueMatches ∧
    (runPart.coilSet 5).interval = 480 ∧ (runPart.coilSet 5).defrostMax = 30 ∧ (runPart.coilSet 5).drip = 5 ∧
    (runPart.coilSet 5).recoverTime = 30 ∧
    ∀ x ∈ [({ phase := .defrost, phaseMinutes := 30 } : Coil), { phase := .drip, phaseMinutes := 5 },
        { phase := .recover, phaseMinutes := 30 }], (coilPart x).DueQueueMatches ∧ (coilPart x).running = true := by
  unfold Part.DueQueueMatches; decide

/-- A list of n entries of other objects. -/
def listed (n : Nat) : Part :=
  { unmask (unmask runPart .doorSealLost) .doorForced with
    alarms := (List.range n).map fun i => ⟨.palletBreach, i + 1, 0, 1, none⟩ }

/-- A listed entry; a masked route, a settled pair, a list of 64; a list of 63. -/
theorem meets_LevelConditionsAtTheAlarmBlock :
    sharedPart.alarm? .doorSealLost 3 = some ⟨.doorSealLost, 3, 0, 1, some true⟩ ∧
    (runPart.alarm? .doorSealLost 3 = none ∧ (runPart.route .doorSealLost).masked = true) ∧
    ({ listed 0 with settled := [(.doorSealLost, 3)] }).isSettled .doorSealLost 3 = true ∧
    ((listed 64).alarm? .doorSealLost 3 = none ∧ 64 ≤ (listed 64).alarms.length) ∧
    ((listed 63).alarm? .doorSealLost 3 = none ∧ ((listed 63).route .doorSealLost).masked = false ∧
      (listed 63).isSettled .doorSealLost 3 = false ∧ (listed 63).alarms.length < 64) := by decide +kernel

theorem meets_EdgeEventsAtTheAlarmBlock :
    (runPart.route .doorForced).masked = true ∧
    (((listed 64).route .doorForced).masked = false ∧ (listed 64).alarm? .doorForced 3 = none ∧
      64 ≤ (listed 64).alarms.length) ∧
    ((listed 63).alarm? .doorForced 3 = none ∧ (listed 63).alarms.length < 64) ∧
    ((sharedPart.route .doorForced).masked = false ∧
      sharedPart.alarm? .doorForced 3 = some ⟨.doorForced, 3, 0, 1, none⟩) := by decide +kernel

theorem meets_PickTimeoutRecallsTheMove :
    ∀ b ∈ [true, false], (timedOut b).running = true ∧
      ((timedOut b).move? 1).map (fun m => (m.state, decide ((timedOut b).store.floor.pickLimit ≤ m.pickSeconds))) =
        some (.released, true) ∧
      ((timedOut b).pallet? 1).map (·.breached) = some b ∧ (timedOut b).offQuarantine (.room 2) = true := by decide

/-- Move 1 RELEASED from TRAILER 4 a second short of the pick limit of 300, and two seconds short, with door 4 in OPEN
and in BREACH; move 2 PICKED. -/
theorem meets_PickTimeoutRecallsTheMove_at_a_second :
    ∀ n ∈ [298, 299], ∀ st ∈ [DoorState.opened, .breach],
      let p := (rich.updMove 1 fun m => { m with pickSeconds := n }).updDoor 4 fun x => { x with state := st }
      p.running = true ∧ p.time.tickIssued = false ∧ p.time.minuteIssued = false ∧ (p.moves.map (·.tag)).Nodup ∧
      (p.move? 1).map (fun m => (m.state, m.source, m.pickSeconds)) = some (.released, .trailer 4, n) ∧
      (p.door 4).state = st ∧ p.store.floor.pickLimit = 300 ∧ (p.move? 2).map (·.state) = some .picked ∧
      (p.pallet? 1).map (·.breached) = some false := by decide

/-- At its budget: of a QUEUED move bound elsewhere, and of a PICKED one. -/
theorem meets_PalletBreachIsDeclared :
    ∀ t ∈ [2, 3], (overBudget t).running = true ∧
      ((overBudget t).pallet? t).map (fun x => (x.breached, decide (x.budget ≤ x.exposure))) = some (false, true) ∧
      ((overBudget t).move? t).map (·.state) = some (if t = 2 then .picked else .queued) ∧
      (overBudget t).offQuarantine (.room 3) = true := by decide

theorem meets_DoorGrantOpensTheHead :
    grantPart.running = true ∧ (grantPart.room 0).queue = 6 :: [] ∧ (grantPart.room 0).hold = false ∧
    (grantPart.room 0).granted < (grantPart.roomSet 0).doorBudget := by decide

/-- Outside the window (0 to 0 is closed), and in it with a wait at the force limit of 240. -/
theorem meets_SlotGrantArmsACoil :
    let forced := (slotPart.setPlantSet { windowStart := 0, windowEnd := 1 }).updCoil 1 fun x =>
      { x with waitMinutes := 240 }
    ∀ p ∈ [slotPart, forced], p.running = true ∧ p.DueQueueMatches ∧ p.slotsHeld < p.store.plant.slotLimit ∧
      p.due.find? (fun e =>
        !(if p.store.plant.windowStart ≤ p.store.plant.windowEnd then
            decide (p.store.plant.windowStart ≤ p.time.second / 60) &&
              decide (p.time.second / 60 < p.store.plant.windowEnd)
          else decide (p.store.plant.windowStart ≤ p.time.second / 60) ||
            decide (p.time.second / 60 < p.store.plant.windowEnd)) ||
        (decide (p.store.plant.forceLimit ≠ 0) &&
          decide (p.store.plant.forceLimit ≤ (p.coil e).waitMinutes))) = some 1 := by
  unfold Part.DueQueueMatches; decide +kernel

/-- The coil of the queue as the LEAD coil of room 0, whose door 4 is OPEN and whose FOLLOW coil 5 is in COOLING. -/
theorem meets_SlotGrantArmsACoil_of_a_lead :
    let p := (slotPart.setCoilSet 1 { room := some 0, role := .lead }).setCoilSet 5 { room := some 0, role := .follow }
    p.running = true ∧ p.DueQueueMatches ∧ p.slotsHeld < p.store.plant.slotLimit ∧ p.due = [1] ∧
    p.slotEligible 1 = true ∧ p.coilRoom 1 = some 0 ∧ (p.inner 4 = some 0 ∧ (p.door 4).state = .opened) ∧
    ((p.coilSet 1).role = .lead ∧ (p.coilSet 5).role = .follow ∧ p.coilRoom 5 = some 0 ∧
      (p.coil 5).phase = .cooling) := by
  unfold Part.DueQueueMatches; decide +kernel

theorem meets_DefrostEntryOfAQuietRoom :
    entryPart.running = true ∧ (entryPart.coil 5).phase = .armed ∧ entryPart.coilRoom 5 = some 1 ∧
    (entryPart.room 1).openDoors = 0 ∧
    ∀ m ∈ entryPart.moves, (m.state = .released ∨ m.state = .picked) → m.source ≠ .room 1 ∧ m.dest ≠ .room 1 := by
  decide

/-- The run at its share of 3, and below it. -/
theorem meets_MoveReleaseOfTheChosenMove :
    (∀ n ∈ [2, 3], (sharePart n).running = true ∧ (sharePart n).MovesMatch ∧
      (sharePart n).trucks < (sharePart n).store.floor.truckLimit) ∧
    ((sharePart 3).store.floor.share ≤ (sharePart 3).dirRun.len ∧
      ((sharePart 3).moves.find? fun x =>
        (sharePart 3).eligible x && decide (some x.direction ≠ (sharePart 3).dirRun.dir)) =
        some (move 45 (.room 1) (.trailer 9) .queued)) ∧
    ((sharePart 2).dirRun.len < (sharePart 2).store.floor.share ∧
      (sharePart 2).moves.find? (sharePart 2).eligible = some (move 44 (.trailer 6) (.room 5) .queued)) := by
  unfold Part.MovesMatch; decide

/-- A move from a trailer to a room and one from a room to a trailer that are eligible, and one to a full room that
is not. -/
theorem meets_MoveReleaseOfTheChosenMove_eligible :
    (sharePart 3).eligible (move 44 (.trailer 6) (.room 5) .queued) = true ∧
    (sharePart 3).eligible (move 45 (.room 1) (.trailer 9) .queued) = true ∧
    rich.eligible (move 3 (.room 2) (.room 3) .queued) = false := by decide +kernel

/-- A part in RUN whose links have 7 answers waiting: one place is left. -/
def nearlyFull (p : Part) : Part :=
  { p with links := Vector.replicate 3 { answers := List.replicate 7 ⟨0x25, 1, .done, 4, []⟩ } }

/-- A part in RUN that has a place for an answer on a link, with its queue as `hasPlace` says it. -/
abbrev takes (p : Part) (l : Link) : Prop := p.running = true ∧ (p.link l).answers.length < Config.answerCapacity

theorem meets_a_request_that_is_taken :
    ∀ l ∈ [Link.plant, .dock, .floor], (nearlyFull rich).running = true ∧ (nearlyFull rich).hasPlace l := by
  unfold Part.hasPlace; decide

theorem meets_a_request_that_is_discarded :
    let p := runPart.updLink .plant fun k => { k with answers := List.replicate 8 ⟨0x25, 1, .done, 4, []⟩ }
    ¬p.hasPlace .plant := by
  unfold Part.hasPlace; decide

/-- The objects at the ends of their ranges. -/
theorem meets_the_object_numbers :
    room? 0 = some 0 ∧ room? 7 = some 7 ∧ door? 0 = some 0 ∧ door? 15 = some 15 ∧ coil? 0 = some 0 ∧
    coil? 11 = some 11 ∧ class? 0 = some .deep ∧ class? 3 = some .cool ∧ group? 0 = some .room ∧
    group? 6 = some .route ∧ kind? 1 = some .doorOpenLong ∧ kind? 13 = some .moveStalled := by decide

/-- A coil in RECOVER of the sampled room, one of another room, and both outcomes of the recovery check. -/
theorem meets_ValidSampleIsTaken :
    let p := rich.updCoil 5 fun x => { x with phase := .recover }
    takes p .plant ∧ room? 1 = some 1 ∧ p.coilRoom 5 = some 1 ∧ (p.coil 5).phase = .recover ∧
    p.coilRoom 0 ≠ some 1 ∧ (p.coil 1).phase ≠ .recover ∧
    (p.roomSet 1).recoverLimit = -170 ∧ reported (filterNext true 4 (-170) 0) = -170 ∧
    reported (filterNext true 4 (-169) 0) = -169 := by decide

/-- A qualify time of 0 and another; a stale room; a room that the sample declares and a suppressed one. -/
theorem meets_ValidSampleIsTaken_declared :
    let p := (stalePart.setRoomSet 1 { qualify := 0 }).updRoom 1 fun x => { x with stale := true }
    takes p .plant ∧ (p.roomSet 1).qualify = 0 ∧ (p.room 1).stale = true ∧ (p.room 1).declared = false ∧
    ((after p (.temperatureSample .plant 1 1 0 0)).room 1).declared = true ∧
    ((after (p.updCoil 5 fun x => { x with phase := .drip }) (.temperatureSample .plant 1 1 0 0)).room 1).declared =
      false ∧
    takes rich .plant ∧ (rich.roomSet 1).qualify ≠ 0 := by decide +kernel

theorem meets_FaultSampleIsRecorded :
    takes rich .plant ∧ room? 7 = some 7 ∧ (stateOf rich).part = rich ∧
    ∀ l ∈ [Link.plant, .dock, .floor], takes rich l := by decide

theorem meets_RoomExposureIsReset :
    Part.reset.running = false ∧ (Part.reset.link .plant).answers.length < 8 ∧ takes exposedPart .plant ∧
    takes exposedPart .dock ∧ room? 1 = some 1 ∧ Link.dock ≠ .plant ∧ (exposedPart.room 1).seeded = true ∧
    (exposedPart.room 1).reached = false ∧
    (exposedPart.roomSet 1).exposureBudget ≤ (exposedPart.room 1).exposure := by decide

/-- Filters at rest for k = 1, 2, 3 and 16 at the ends of their residues, and one that moves. -/
theorem meets_FilterRestsBesideItsTarget :
    filterNext false 1 (-500) (-8015) = -8015 ∧ filterNext false 2 500 7993 = 7993 ∧ filterNext false 3 0 5 = 5 ∧
    filterNext false 16 0 0 = 0 ∧ filterNext false 16 0 1 = 0 := by decide

theorem meets_CoilTerminatedAndDemand :
    ∀ st ∈ [Phase.defrost, .cooling, .armed], (coilPart { phase := st }).running = true ∧
      (coilPart { phase := st }).hasPlace .plant ∧ coil? 5 = some 5 ∧ (coilPart { phase := st }).DueQueueMatches ∧
      ((coilPart { phase := st }).coil 5).phase = st := by
  unfold Part.hasPlace Part.DueQueueMatches; decide

/-- The phases in which the one request or the other is turned away or changes nothing. -/
theorem meets_CoilTerminatedAndDemand_turned_away :
    ∀ st ∈ [Phase.due, .armed, .drip, .recover, .off],
      let p := { coilPart { phase := st } with due := if st = .due then [5] else [] };
      takes p .plant ∧ p.DueQueueMatches ∧ (p.coil 5).phase = st ∧ st ≠ .defrost := by
  unfold Part.DueQueueMatches; decide

/-- The ends of the staged ranges, and the two phases of COIL SERVICE. -/
theorem meets_StagedTimingAndCoilService :
    takes runPart .plant ∧ takes (coilPart { phase := .off }) .plant ∧ coil? 5 = some 5 ∧
    runPart.locked .coil = false ∧ (0#16).toNat = 0 ∧ 30 ≤ (30#16).toNat ∧ (2880#16).toNat ≤ 2880 ∧
    5 ≤ (5#8).toNat ∧ (90#8).toNat ≤ 90 ∧ (runPart.coil 5).phase = .cooling ∧
    ((coilPart { phase := .off }).coil 5).phase = .off := by decide

theorem meets_StagedTimingAndCoilService_turned_away :
    takes (coilPart { phase := .armed }) .plant ∧ coil? 5 = some 5 ∧ ((coilPart { phase := .armed }).coil 5).phase ≠
      .cooling ∧ ((coilPart { phase := .armed }).coil 5).phase ≠ .off := by decide

theorem meets_TrailerRestraintAndSealReports :
    takes rich .dock ∧ door? 6 = some 6 ∧ door? 15 = some 15 ∧ (rich.door 6).state ≠ .service ∧
    rich.inner 6 ≠ none ∧ (rich.door 6).engaged ≠ false ∧
    (rich.door 6).engaged = true ∧ (rich.door 6).rawSeal = .good ∧ (rich.door 6).rawSeal ≠ .lost ∧
    (rich.door 15).trailer = false ∧ (rich.door 15).state = .vacant := by decide

/-- A door in SERVICE, one without an inner room, one in OPEN with a move on its lane, and a breach by the seal that
its restraint ends. -/
theorem meets_TrailerRestraintAndSealReports_of_other_doors :
    (let p := rich.updDoor 15 fun x => { x with state := .service };
      takes p .dock ∧ (p.door 15).state = .service) ∧
    (let p := rich.setDoorSet 15 {}; takes p .dock ∧ p.inner 15 = none ∧ (p.door 15).state ≠ .service) ∧
    (takes rich .dock ∧ (rich.door 4).lane = some 1 ∧ (rich.door 4).state = .opened ∧ (rich.door 4).engaged ≠ false) ∧
    (let p := rich.updDoor 4 fun x => { x with state := .breach, cause := some .sealLoss, engaged := false };
      takes p .dock ∧ (p.door 4).lane = some 1 ∧ (p.door 4).state = .breach ∧
      ((after p (.restraint .dock 1 4 1)).door 4).state = .opened) := by decide +kernel

theorem meets_TrailerLeftEmptiesTheTrailer :
    takes rich .dock ∧ door? 4 = some 4 ∧ (rich.door 4).state ≠ .service ∧ (rich.door 4).trailer = true ∧
    rich.MovesMatch := by
  unfold Part.MovesMatch; decide

/-- A pallet at the trailer and the RELEASED move that takes it away; the PICKED move to trailer 5; a waiting door; a
door without a trailer. -/
theorem meets_TrailerLeftEmptiesTheTrailer_of_moves :
    (∃ x ∈ rich.pallets, x.loc = .trailer 4) ∧
    (∃ m ∈ rich.moves, m.namesTrailer 4 = true ∧ m.state = .released ∧ m.source = .trailer 4) ∧
    (∃ m ∈ rich.moves, m.namesTrailer 5 = true ∧ m.state = .picked ∧ m.dest = .trailer 5) ∧
    ((rich.door 6).state = .waiting ∧ (rich.door 6).trailer = true ∧ (rich.door 5).trailer = true) ∧
    (rich.door 15).trailer = false ∧ (rich.door 15).state ≠ .service := by decide

/-- A closed door, a waiting one, and one in OPEN. -/
theorem meets_ForcedOpeningBreaches :
    takes rich .dock ∧ door? 15 = some 15 ∧ door? 6 = some 6 ∧ door? 4 = some 4 ∧
    (rich.door 15).state = .vacant ∧ (rich.door 6).state = .waiting ∧ rich.DoorQueuesMatch ∧
    (rich.door 4).state = .opened := by
  unfold Part.DoorQueuesMatch; decide

/-- The waiting door as it stands before a move on its lane, with the hold of its room set. -/
theorem meets_ForcedOpeningBreaches_with_a_lane :
    let p := rich.updDoor 6 fun x => { x with lane := some 9 }
    takes p .dock ∧ p.DoorQueuesMatch ∧ (p.door 6).state = .waiting ∧ (p.door 6).lane = some 9 ∧
    p.inner 6 = some 0 ∧ (p.room 0).hold = true := by
  unfold Part.DoorQueuesMatch; decide

/-- A door in OPEN behind an empty queue, and a closed one. -/
theorem meets_ClosingEndsTheOpening :
    let p := apronPart 240
    takes p .dock ∧ door? 3 = some 3 ∧ door? 2 = some 2 ∧ (p.door 3).state = .opened ∧ p.DoorQueuesMatch ∧
    p.inner 3 = some 0 ∧ (p.room 0).queue = [] ∧
    (p.door 2).state = .vacant := by
  unfold Part.DoorQueuesMatch; decide +kernel

/-- The door of a RELEASED move that holds its lane. -/
theorem meets_ClosingEndsTheOpening_of_a_move :
    takes rich .dock ∧ door? 4 = some 4 ∧ (rich.door 4).state = .opened ∧ rich.DoorQueuesMatch ∧
    (rich.moves.map (·.tag)).Nodup ∧ rich.inner 4 = some 0 ∧
    ∃ m ∈ rich.moves, m.state = .released ∧ m.namesTrailer 4 = true ∧ (4 : DoorId) ∈ m.lanes := by
  unfold Part.DoorQueuesMatch; decide

/-- A door in BREACH that has been open long. -/
theorem meets_ClosingEndsTheOpening_of_a_breach :
    let p := longPart.updDoor 3 fun x => { x with state := .breach, cause := some .sealLoss, openLong := true }
    takes p .dock ∧ door? 3 = some 3 ∧ (p.door 3).state = .breach ∧ (p.door 3).openLong = true ∧
    p.DoorQueuesMatch := by
  unfold Part.DoorQueuesMatch; decide +kernel

theorem meets_DoorServiceOnAndOff :
    takes rich .dock ∧ door? 15 = some 15 ∧ door? 4 = some 4 ∧
    (rich.door 15).state = .vacant ∧ (rich.door 4).state ≠ .service ∧
    takes (rich.updDoor 15 fun x => { x with state := .service }) .dock ∧
    ((rich.updDoor 15 fun x => { x with state := .service }).door 15).state = .service := by decide

/-- A door that is neither VACANT, SEALED nor in SERVICE. -/
theorem meets_the_doors_turned_away :
    takes rich .dock ∧ door? 4 = some 4 ∧ rich.inner 4 = some 0 ∧ (rich.door 4).state ≠ .vacant ∧
    (rich.door 4).state ≠ .service ∧ (rich.door 4).state ≠ .sealed := by decide

/-- A SEALED door of a room with a hold, and of one that may grant. -/
theorem meets_OpenRequestIsGrantedOrWaits :
    let p := rich.updDoor 2 fun _ => dockedDoor .sealed
    let q := runPart.updDoor 9 fun _ => dockedDoor .sealed
    (takes p .dock ∧ door? 2 = some 2 ∧ (p.door 2).state = .sealed ∧ p.inner 2 = some 0 ∧ (p.room 0).hold = true) ∧
    (takes q .dock ∧ door? 9 = some 9 ∧ (q.door 9).state = .sealed ∧ q.inner 9 = some 0 ∧ (q.room 0).hold = false ∧
    (q.room 0).queue = [] ∧
      (q.room 0).granted < (q.roomSet 0).doorBudget) := by decide

theorem meets_OpenCancelWithdrawsARequest :
    takes rich .dock ∧ door? 6 = some 6 ∧ (rich.door 6).state = .waiting ∧ rich.inner 6 = some 0 ∧
    door? 15 = some 15 ∧ rich.inner 15 = some 0 ∧ (rich.door 15).state = .vacant ∧ door? 4 = some 4 ∧
    rich.inner 4 = some 0 ∧ (rich.door 4).state = .opened := by decide

/-- A trailer and a room that take a new pallet, and a pallet without a move in a room. -/
theorem meets_PalletsAreRegisteredAndRemoved :
    takes acceptPart .floor ∧ takes rich .floor ∧ (501#32) ≠ 0#32 ∧ (501#32).toNat = 501 ∧ (4#32).toNat = 4 ∧
    class? 1 = some .frozen ∧ acceptPart.pallet? 501 = none ∧ acceptPart.pallets.length < 256 ∧
    (loc? ⟨1, 9⟩ = some (.trailer 9) ∧ (acceptPart.door 9).trailer = true) ∧
    (loc? ⟨0, 4⟩ = some (.room 4) ∧
      (acceptPart.room 4).occupancy + (acceptPart.room 4).reservations < (acceptPart.roomSet 4).capacity ∧
      (acceptPart.classRow (acceptPart.roomSet 4).cls).limit ≤ (acceptPart.classRow .frozen).limit) ∧
    1 ≤ (1#32).toNat ∧ (9999999#32).toNat ≤ 9999999 ∧
    (rich.pallet? 4).map (fun x => (x.live, x.loc)) = some (false, .room 3) := by decide

/-- Tag 4 has a record and tag 1 one with a live move; TRANSIT, a door without a trailer, a full room, and a room too
warm for class DEEP; and a table of 256 records. -/
theorem meets_PalletsAreRegisteredAndRemoved_refused :
    takes rich .floor ∧ rich.pallet? 4 ≠ none ∧ rich.pallet? 9 = none ∧ (rich.pallet? 1).map (·.live) = some true ∧
    takes acceptPart .floor ∧ acceptPart.pallet? 501 = none ∧ acceptPart.pallets.length < 256 ∧
    loc? ⟨2, 0⟩ = some .transit ∧ (acceptPart.door 10).trailer = false ∧
    (acceptPart.roomSet 1).capacity ≤ (acceptPart.room 1).occupancy + (acceptPart.room 1).reservations ∧
    acceptPart.store.floor.quarantineRoom ≠ some 4 ∧ class? 0 = some .deep ∧
    (acceptPart.classRow .deep).limit < (acceptPart.classRow (acceptPart.roomSet 4).cls).limit ∧
    (let p := { rich with pallets := List.replicate 256 (pallet 4 (.room 3) false) };
      takes p .floor ∧ p.pallet? 9 = none ∧ 256 ≤ p.pallets.length) := by decide +kernel

/-- A destination room, a destination trailer, at the truck limit and below it; and the cancels. -/
theorem meets_MovesAreOrderedAndCancelled :
    (∀ n ∈ [2, 4], takes (orderPart n) .floor ∧ (orderPart n).pallet? 4 = some (pallet 4 (.room 3) false) ∧
    (orderPart n).moves.length < 48 ∧
      (orderPart n).MovesMatch ∧ (orderPart n).accepts 2 .frozen false = true ∧
      ((orderPart n).door 5).trailer = true) ∧
    takes rich .floor ∧ (4#32) ≠ 0#32 ∧ Loc.room 3 ≠ .room 2 ∧
    loc? ⟨0, 2⟩ = some (.room 2) ∧ loc? ⟨1, 5⟩ = some (.trailer 5) ∧ (orderPart 4).store.floor.truckLimit = 4 ∧
    (rich.move? 1).map (·.state) = some .released ∧ (rich.move? 3).map (·.state) = some .queued := by
  unfold Part.MovesMatch; decide

/-- No record of tag 9; a live move of tag 1; a breached pallet 4, and where it stands; a queue of 48 moves; no move 4,
and a PICKED move 2. -/
theorem meets_MovesAreOrderedAndCancelled_refused :
    takes rich .floor ∧ rich.pallet? 9 = none ∧ (rich.pallet? 1).map (·.live) = some true ∧
    (rich.pallet? 4).map (fun x => (x.live, x.breached, x.loc)) = some (false, true, .room 3) ∧
    rich.move? 4 = none ∧ (rich.move? 2).map (·.state) = some .picked ∧
    (let p := { orderPart 4 with moves := List.replicate 48 (move 3 (.room 2) (.room 3) .queued) };
      takes p .floor ∧ p.pallet? 4 = some (pallet 4 (.room 3) false) ∧ 48 ≤ p.moves.length ∧
      p.accepts 2 .frozen false = true) := by decide

/-- A RELEASED move from a trailer in OPEN, and a PICKED move at its destination and at a room that accepts it. -/
theorem meets_MovesArePickedAndDropped :
    takes rich .floor ∧ (1#32) ≠ 0#32 ∧ (2#32) ≠ 0#32 ∧ loc? ⟨1, 5⟩ = some (.trailer 5) ∧
    (rich.move? 1).map (fun m => (m.state, m.source)) = some (.released, .trailer 4) ∧
    (rich.door 4).state ≠ .breach ∧ rich.MovesMatch ∧
    (rich.move? 2).map (fun m => (m.state, m.dest)) = some (.picked, .trailer 5) ∧ (rich.door 5).state = .opened ∧
    (rich.room 2).hold = false ∧ (rich.pallet? 2).map (fun x => rich.accepts 2 x.cls x.breached) = some true := by
  unfold Part.MovesMatch; decide

theorem meets_MovesArePickedAndDropped_from_a_room :
    let p := { rich with moves := [move 3 (.room 2) (.room 3) .released], pallets := [pallet 3 (.room 2) true] }
    takes p .floor ∧ p.MovesMatch ∧ (p.move? 3).map (fun m => (m.state, m.source)) = some (.released, .room 2) := by
  unfold Part.MovesMatch; decide

/-- Move 3 QUEUED, never recalled and recalled once; move 1 with its source door in BREACH; move 2 PICKED, at its
destination with the door in BREACH and WAITING, at another trailer, and at rooms 3, which is full, and 2, which is
held; and no move of tag 9. -/
theorem meets_MovesArePickedAndDropped_refused :
    takes rich .floor ∧ rich.move? 9 = none ∧ (loc? ⟨1, 5⟩).isSome = true ∧
    (rich.move? 3).map (fun m => (m.state, m.recalls)) = some (.queued, 0) ∧
    ((rich.updMove 3 fun m => { m with recalls := 1 }).move? 3).map (fun m => (m.state, m.recalls)) =
      some (.queued, 1) ∧
    (rich.move? 1).map (fun m => (m.state, m.source)) = some (.released, .trailer 4) ∧
    (rich.move? 2).map (fun m => (m.state, m.dest)) = some (.picked, .trailer 5) ∧
    (∀ st ∈ [DoorState.breach, .waiting], ∀ d ∈ [4, 5],
      ((rich.updDoor d fun x => { x with state := st }).door d).state = st) ∧
    loc? ⟨1, 4⟩ = some (.trailer 4) ∧ (rich.door 4).state ≠ .breach ∧
    (rich.pallet? 2).map (fun x => rich.accepts 3 x.cls x.breached) = some false ∧
    ((rich.updRoom 2 fun x => { x with hold := true }).room 2).hold = true ∧ loc? ⟨2, 0⟩ = some .transit := by decide

/-- Two settings and a repeated one; the ends of one range of each group. -/
theorem meets_SettingRanges :
    (([⟨3, -500⟩, ⟨11, 4000⟩] : List Item).map (·.num)).Nodup ∧ ¬(([⟨3, 0⟩, ⟨3, 1⟩] : List Item).map (·.num)).Nodup ∧
    [29, 30, 1800, 1801].map (fun v => (roomItem 7 v).isSome) = [false, true, true, false] ∧
    [-2, -1, 7, 8].map (fun v => (doorItem 1 v).isSome) = [false, true, true, false] ∧
    [0, 29, 30, 2880].map (fun v => (coilItem 3 v).isSome) = [true, false, true, true] ∧
    [-1, 0, 1439, 1440].map (fun v => (plantItem 2 v).isSome) = [false, true, true, false] ∧
    [-101, -100, 100, 101].map (fun v => (floorItem 3 v).isSome) = [false, true, true, false] ∧
    [0, 1, 9999999, 10000000].map (fun v => (classItem 2 v).isSome) = [false, true, true, false] ∧
    [-1, 0, 1, 2].map (fun v => ((routeItem true 2 v).isSome, (routeItem false 2 v).isSome)) =
      [(false, false), (true, false), (true, true), (false, false)] := by decide

/-- In every group a request that is refused whole: a value beside its range, a number the group has not, a setting
named twice. -/
theorem meets_SettingRanges_refused :
    (takes rich .plant ∧ maySetRoom .plant [⟨3, 501⟩] = true ∧ rich.locked .room = false ∧ room? 7 = some 7 ∧
      newSettings roomItem [⟨3, 501⟩] (rich.roomSet 7) = none ∧
      newSettings roomItem [⟨3, 0⟩, ⟨3, 1⟩] (rich.roomSet 7) = none ∧
      newSettings roomItem [⟨13, 0⟩] (rich.roomSet 7) = none) ∧
    (takes rich .dock ∧ rich.locked .door = false ∧ door? 15 = some 15 ∧
      newSettings doorItem [⟨1, 8⟩] (rich.doorSet 15) = none) ∧
    (rich.locked .coil = false ∧ coil? 11 = some 11 ∧ newSettings coilItem [⟨3, 29⟩] (rich.coilSet 11) = none) ∧
    (rich.locked .plant = false ∧ newSettings plantItem [⟨4, 9⟩] rich.store.plant = none) ∧
    (takes rich .floor ∧ rich.locked .floor = false ∧ newSettings floorItem [⟨8, 7201⟩] rich.store.floor = none ∧
      (0#8).toNat = 0 ∧ 32 < (33#8).toNat) ∧
    (Part.reset.locked .cls = false ∧ class? 3 = some .cool ∧
      newSettings classItem [⟨2, 0⟩] (Part.reset.classRow .cool) = none) ∧
    (rich.locked .route = false ∧ kind? 3 = some .doorForced ∧ (rich.route .doorForced).ack = .dock ∧
      newSettings (routeItem Kind.doorForced.isLevel) [⟨2, 0⟩] (rich.route .doorForced) = none) ∧
    ((4#16).toNat < 5 ∧ 600 < (601#16).toNat ∧ ∃ x ∈ List.replicate 8 (0x40#8), x.getLsbD 6 = true) := by decide

/-- Capacity and budget at the live limits, and below them. -/
theorem meets_RoomSettingsAreSet :
    takes rich .floor ∧ takes rich .dock ∧ room? 2 = some 2 ∧ room? 0 = some 0 ∧
    rich.locked .room = false ∧ (rich.running = true → maySetRoom .floor [⟨11, 2⟩] = true) ∧
    newSettings roomItem [⟨11, 2⟩] (rich.roomSet 2) = some { capacity := 2 } ∧
    (rich.room 2).occupancy + (rich.room 2).reservations = 2 ∧
    newSettings roomItem [⟨11, 1⟩] (rich.roomSet 2) = some { capacity := 1 } ∧
    maySetRoom .dock [⟨10, 2⟩] = true ∧ newSettings roomItem [⟨10, 2⟩] (rich.roomSet 0) = some { doorBudget := 2 } ∧
    (rich.room 0).granted = 2 ∧ newSettings roomItem [⟨10, 1⟩] (rich.roomSet 0) = some { doorBudget := 1 } := by
  decide

/-- A raised budget, a raised capacity and another class, in RUN. -/
theorem meets_RoomSettingsAreSet_raised :
    takes rich .dock ∧ takes rich .floor ∧ takes rich .plant ∧ rich.locked .room = false ∧
    (maySetRoom .dock [⟨10, 3⟩] = true ∧
      newSettings roomItem [⟨10, 3⟩] (rich.roomSet 0) = some { doorBudget := 3 } ∧ (rich.roomSet 0).doorBudget < 3) ∧
    (maySetRoom .floor [⟨11, 11⟩] = true ∧
      newSettings roomItem [⟨11, 11⟩] (rich.roomSet 2) = some { capacity := 11 } ∧ (rich.roomSet 2).capacity < 11) ∧
    (maySetRoom .plant [⟨2, 0⟩] = true ∧ newSettings roomItem [⟨2, 0⟩] (rich.roomSet 1) = some { cls := .deep } ∧
      (rich.roomSet 1).cls ≠ .deep) := by decide

/-- A lowered capacity is another capacity. -/
theorem meets_RoomSettingsAreSet_lowered :
    takes rich .floor ∧ rich.locked .room = false ∧ room? 2 = some 2 ∧ maySetRoom .floor [⟨11, 9⟩] = true ∧
    newSettings roomItem [⟨11, 9⟩] (rich.roomSet 2) = some { capacity := 9 } ∧ 9 ≠ (rich.roomSet 2).capacity := by
  decide

/-- A door that is VACANT and one that is OPEN; a profile's ends; a coil; a class in SETUP. -/
theorem meets_DoorCoilAndClassSettingsAreSet :
    (takes rich .dock ∧ takes rich .plant ∧ door? 15 = some 15 ∧ door? 4 = some 4 ∧ coil? 5 = some 5) ∧
    (rich.locked .door = false ∧ newSettings doorItem [⟨1, 7⟩] (rich.doorSet 15) = some { innerRoom := some 7 } ∧
      (rich.door 15).state = .vacant) ∧
    (newSettings doorItem [⟨1, 7⟩] (rich.doorSet 4) = some { innerRoom := some 7 } ∧ (rich.door 4).state = .opened) ∧
    (5 ≤ (5#16).toNat ∧ (600#16).toNat ≤ 600 ∧ (0x3F#8) = BitVec.ofNat 8 63 ∧ (0xBF#8) = BitVec.ofNat 8 (128 + 63)) ∧
    (rich.locked .coil = false ∧
    newSettings coilItem [⟨5, 20⟩] (rich.coilSet 5) = some { room := some 1, drip := 20 } ∧
      ∀ i ∈ ([⟨5, 20⟩] : List Item), i.num ≠ 1#8 ∧ i.num ≠ 2#8) ∧
    (Part.reset.running = false ∧ class? 3 = some .cool ∧ (Part.reset.link .plant).answers.length < 8 ∧
      Part.reset.locked .cls = false ∧
      newSettings classItem [⟨1, 500⟩] (Part.reset.classRow .cool) = some ⟨500, 12000⟩) := by decide

/-- A truck limit at the truck count of 2 and below it, from both requests, and a plant setting. -/
theorem meets_PlantAndFloorSettingsAreSet :
    (takes rich .plant ∧ takes rich .floor ∧ rich.locked .plant = false ∧
      newSettings plantItem [⟨2, 1439⟩] rich.store.plant = some { windowStart := 1439 }) ∧
    (rich.locked .floor = false ∧
      newSettings floorItem [⟨4, 2⟩] rich.store.floor = some { transitRoom := some 0, truckLimit := 2 } ∧
      rich.trucks = 2) ∧
    (newSettings floorItem [⟨4, 1⟩] rich.store.floor = some { transitRoom := some 0, truckLimit := 1 } ∧
      carries [⟨4, 1⟩] 4 = true) ∧
    (1 ≤ (1#8).toNat ∧ (32#8).toNat ≤ 32 ∧ rich.trucks ≤ (2#8).toNat ∧ (1#8).toNat < rich.trucks) ∧
    ∀ i ∈ ([⟨4, 2⟩] : List Item), i.num ≠ 1#8 ∧ i.num ≠ 2#8 := by decide

/-- A truck limit raised in RUN, and a DUE queue that matches. -/
theorem meets_PlantAndFloorSettingsAreSet_raised :
    rich.DueQueueMatches ∧ rich.store.floor.truckLimit < (30#8).toNat ∧
    newSettings floorItem [⟨4, 30⟩] rich.store.floor = some { transitRoom := some 0, truckLimit := 30 } := by
  unfold Part.DueQueueMatches; decide

/-- A carried defer limit, arm limit, transit limit and stall limit, each at an end of its range. -/
theorem meets_PlantAndFloorSettingsAreSet_examinations :
    takes rich .plant ∧ takes rich .floor ∧ rich.locked .plant = false ∧ rich.locked .floor = false ∧
    (carries [⟨4, 0⟩] 4 = true ∧ (newSettings plantItem [⟨4, 0⟩] rich.store.plant).isSome = true) ∧
    (carries [⟨6, 120⟩] 6 = true ∧ (newSettings plantItem [⟨6, 120⟩] rich.store.plant).isSome = true) ∧
    (carries [⟨7, 3600⟩] 7 = true ∧ (newSettings floorItem [⟨7, 3600⟩] rich.store.floor).isSome = true) ∧
    (carries [⟨8, 60⟩] 8 = true ∧ (newSettings floorItem [⟨8, 60⟩] rich.store.floor).isSome = true) ∧
    (∀ i ∈ ([⟨4, 0⟩, ⟨6, 120⟩] : List Item), i.num ≠ 1#8) ∧
    (∀ i ∈ ([⟨7, 3600⟩, ⟨8, 60⟩] : List Item), i.num ≠ 1#8 ∧ i.num ≠ 2#8) ∧ rich.moves ≠ [] := by decide

theorem meets_RoutesAreSetAndGroupsLocked :
    (takes rich .dock ∧ kind? 3 = some .doorForced ∧ rich.locked .route = false ∧
    (rich.route .doorForced).ack = .dock ∧
      newSettings (routeItem Kind.doorForced.isLevel) [⟨1, 1⟩] (rich.route .doorForced) =
        some { rich.route .doorForced with masked := false }) ∧
    (takes (rich.setLock .room) .plant ∧ group? 0 = some .room ∧ (rich.setLock .room).locked .room = true ∧
    maySetRoom .plant [⟨3, 0⟩] = true) := by decide

/-- A level kind with a true condition on door 11, its masked route unmasked, in EDGE mode and into LEVEL
mode. -/
theorem meets_RoutesAreSetAndGroupsLocked_of_a_level_kind :
    let p := { sharedPart.setRoute .doorOpenLong ⟨true, .edge, .dock, 4, 20⟩ with alarms := [], settled := [] };
    takes p .dock ∧ kind? 1 = some .doorOpenLong ∧ Kind.doorOpenLong.isLevel = true ∧ p.locked .route = false ∧
    (p.route .doorOpenLong).ack = .dock ∧ p.condition .doorOpenLong 11 = true ∧
    newSettings (routeItem Kind.doorOpenLong.isLevel) [⟨1, 1⟩] (p.route .doorOpenLong) =
      some ⟨false, .edge, .dock, 4, 20⟩ ∧
    newSettings (routeItem Kind.doorOpenLong.isLevel) [⟨1, 1⟩, ⟨2, 0⟩] (p.route .doorOpenLong) =
      some ⟨false, .level, .dock, 4, 20⟩ := by decide +kernel

/-- A group that is none of the seven, and a part of RUN and one of SETUP with each group locked. -/
theorem meets_RoutesAreSetAndGroupsLocked_of_every_group :
    (7 ≤ (7#8).toNat ∧ 7 ≤ (255#8).toNat) ∧
    (∀ g ∈ [Group.room, .door, .coil, .plant, .floor, .route], (rich.setLock g).locked g = true ∧
      ∀ l ∈ [Link.plant, .dock, .floor], takes (rich.setLock g) l) ∧
    (∀ l ∈ [Link.plant, .dock, .floor],
      maySetRoom l [⟨if l = .plant then 3 else if l = .dock then 10 else 11, 0⟩] = true) ∧
    (kind? 3 = some .doorForced ∧ Link.dock = ((rich.setLock .route).route .doorForced).ack) ∧
    ((Part.reset.setLock .cls).running = false ∧ (Part.reset.setLock .cls).locked .cls = true ∧
      ((Part.reset.setLock .cls).link .floor).answers.length < 8) ∧
    (List.replicate 8 (0#8)).length = 8 ∧ (∀ i ∈ someItems 5, i.num = 1#8) ∧
    ∀ i ∈ ([⟨3, 0⟩, ⟨200, 0⟩] : List Item), i.num ≠ 1#8 ∧ i.num ≠ 2#8 := by decide

theorem meets_ClockIsSet :
    takes rich .plant ∧ (Part.reset.link .floor).answers.length < 8 ∧ 86400 ≤ (86400#32).toNat ∧
    (86399#32).toNat < 86400 := by decide

theorem meets_ReadsAnswerTheRecords :
    takes rich .plant ∧ takes rich .dock ∧ takes rich .floor ∧ (4#32) ≠ 0#32 ∧
    (rich.pallet? (4#32).toNat).isSome = true ∧ room? 7 = some 7 ∧ door? 15 = some 15 ∧ coil? 11 = some 11 ∧
    class? 3 = some .cool ∧ kind? 13 = some .moveStalled := by decide

/-- The first number out of each range, and a tag without a record. -/
theorem meets_ReadsAnswerTheRecords_refused :
    takes rich .plant ∧ rich.pallet? 9 = none ∧ (9#32).toNat = 9 ∧ 8 ≤ (8#8).toNat ∧ 16 ≤ (16#8).toNat ∧
    12 ≤ (12#8).toNat ∧ 7 ≤ (7#8).toNat ∧ 4 ≤ (4#8).toNat ∧ 14 ≤ (14#8).toNat := by decide

/-- R183 by hand: −145 is 0xFF6F, 480 is 0x01E0, tag 7301 is 0x00001C85, −2 half-degrees 0x82, bits 0 and 4 of a byte
0x11. -/
theorem test_field_encodings :
    signedField 2 (-145) = [0xFF, 0x6F] ∧ unsignedField 2 480 = [0x01, 0xE0] ∧
    unsignedField 4 7301 = [0, 0, 0x1C, 0x85] ∧ segmentField (-2) = 0x82 ∧
    bitField [true, false, false, false, true] = [0x11] ∧ enumField [Phase.cooling, .due, .armed] .armed = [2] ∧
    numberField none = [0xFF] ∧ locField (.trailer 5) = [1, 5] := by decide

/-- A code that matches a standing level condition and an edge kind, and one that matches nothing. -/
theorem meets_AcknowledgementSettlesItsAlarms :
    sharedPart.running = true ∧ sharedPart.hasPlace .dock ∧ (20#8) ≠ 0#8 ∧
    (sharedPart.alarms.filter fun a => decide ((sharedPart.route a.kind).code = 20 ∧
      (sharedPart.route a.kind).ack = .dock)).length = 2 ∧
    (sharedPart.alarms.filter fun a => decide ((sharedPart.route a.kind).code = 255 ∧
      (sharedPart.route a.kind).ack = .dock)) = [] := by
  unfold Part.hasPlace; decide

/-- The same alarms, the standing condition of a route in EDGE mode, of a masked route, and over; and one whose
condition is true and that is not listed. -/
theorem meets_AcknowledgementSettlesItsAlarms_by_route :
    sharedPart.AlarmsInRange ∧ sharedPart.condition .doorOpenLong 11 = true ∧
    (∀ m ∈ [true, false],
      let p := sharedPart.setRoute .doorOpenLong ⟨m, .edge, .dock, 4, 20⟩
      takes p .dock ∧ p.AlarmsInRange ∧ (p.route .doorOpenLong).mode = .edge ∧
      (p.route .doorOpenLong).masked = m ∧ ((p.route .doorForced).code, (p.route .doorForced).ack) = (20, .dock)) ∧
    (let p := { (sharedPart.updDoor 11 fun _ => {}) with alarms := [⟨.doorOpenLong, 11, 0, 255, some false⟩] };
      takes p .dock ∧ p.AlarmsInRange ∧ p.condition .doorOpenLong 11 = false) ∧
    (let p := sharedPart.updDoor 12 fun _ => { openDoor 0 with openLong := true };
      p.AlarmsInRange ∧ p.condition .doorOpenLong 12 = true ∧ (.doorOpenLong, 12) ∉ p.settled) := by
  unfold Part.AlarmsInRange; decide

/-- The phases of the rich part with coil 5 in another: ARMED and DUE stand there, and the four others are met. -/
theorem meets_RestartKeepsTheFacts :
    rich.running = true ∧ rich.hasPlace .floor ∧ (rich.coil 0).phase = .armed ∧ (rich.coil 1).phase = .due ∧
    ∀ st ∈ [Phase.recover, .off, .defrost, .drip],
      ((rich.updCoil 5 fun x => { x with phase := st }).coil 5).phase = st := by
  unfold Part.hasPlace; decide

/-- Coil 5 in COOLING: an ALONE coil, and a FOLLOW coil whose LEAD coil 7 is in COOLING; a door whose open-long flag
stands, with its route unmasked. -/
theorem meets_RestartKeepsTheFacts_cooling :
    takes rich .floor ∧ (rich.coil 5).phase = .cooling ∧ (rich.coilSet 5).role = .alone ∧
    (let p := (rich.setCoilSet 5 { room := some 1, role := .follow }).setCoilSet 7 { room := some 1, role := .lead };
      takes p .floor ∧ (p.coil 5).phase = .cooling ∧ ∀ e, (p.coilSet e).role = .lead →
        p.coilRoom e = p.coilRoom 5 → (p.coil e).phase ≠ .due ∧ (p.coil e).phase ≠ .armed) ∧
    takes sharedPart .floor ∧ (sharedPart.route .doorOpenLong).masked = false ∧
    sharedPart.condition .doorOpenLong 11 = true := by decide

/-- An alarm listed after a restart, on a route with a copy link. -/
theorem meets_RestartKeepsTheFacts_alarms :
    let q := after (sharedPart.setRoute .doorOpenLong ⟨false, .level, .dock, 4, 20⟩) (.restart .floor 1)
    (∃ a ∈ q.alarms, a.kind = .doorOpenLong ∧ a.object = 11) ∧ (q.route .doorOpenLong).ack = .dock ∧
    (q.route .doorOpenLong).copies.getLsbD (linkIndex .floor).val = true := by decide +kernel

/-- The part above before its commissioning, with one FOLLOW coil beside one LEAD coil. -/
def setupPart : Part :=
  let p : Part := { runPart with store := { runPart.store with mode := .setup } }
  (p.setCoilSet 0 { room := some 1, role := .lead }).setCoilSet 11 { room := some 1, role := .follow }

theorem meets_CommissionEntersRun :
    takes rich .plant ∧ (∀ p ∈ [Part.reset, Part.reset.setFloorSet { transitRoom := some 0 }, setupPart],
      p.running = false ∧ (p.link .plant).answers.length < 8) ∧
    Part.reset.store.floor.transitRoom = none ∧
    ((Part.reset.setFloorSet { transitRoom := some 0 }).store.floor.transitRoom ≠ none ∧
      (Part.reset.setFloorSet { transitRoom := some 0 }).coilRoom 11 = none) ∧
    (setupPart.running = false ∧ setupPart.store.floor.transitRoom ≠ none ∧
      (∀ c, setupPart.coilRoom c ≠ none) ∧
      (∀ d, (setupPart.door d).state = .service ∨ setupPart.inner d ≠ none) ∧
      (∀ c e, (setupPart.coilSet c).role = .lead → (setupPart.coilSet e).role = .lead →
        setupPart.coilRoom c = setupPart.coilRoom e → c = e) ∧
      ∀ c, (setupPart.coilSet c).role = .follow →
        ∃ e, (setupPart.coilSet e).role = .lead ∧ setupPart.coilRoom e = setupPart.coilRoom c) := by decide +kernel

/-- The part before its commissioning with door 15 without an inner room, with a second LEAD coil in room 1, and with
its LEAD coil in another room. -/
theorem meets_CommissionEntersRun_incomplete :
    (∀ p ∈ [setupPart, setupPart.setDoorSet 15 {}, setupPart.setCoilSet 7 { room := some 1, role := .lead },
        setupPart.setCoilSet 0 { room := some 2, role := .lead }],
      p.running = false ∧ p.hasPlace .dock ∧ p.store.floor.transitRoom ≠ none ∧ (∀ c, p.coilRoom c ≠ none)) ∧
    (let p := setupPart.setDoorSet 15 {}; ∃ d, (p.door d).state ≠ .service ∧ p.inner d = none) ∧
    (let p := setupPart.setCoilSet 7 { room := some 1, role := .lead };
      (∀ d, (p.door d).state = .service ∨ p.inner d ≠ none) ∧
      ∃ c e, (p.coilSet c).role = .lead ∧ (p.coilSet e).role = .lead ∧ p.coilRoom c = p.coilRoom e ∧ c ≠ e) ∧
    (let p := setupPart.setCoilSet 0 { room := some 2, role := .lead };
      (∀ d, (p.door d).state = .service ∨ p.inner d ≠ none) ∧
      (∀ c e, (p.coilSet c).role = .lead → (p.coilSet e).role = .lead → p.coilRoom c = p.coilRoom e → c = e) ∧
      ∃ c, (p.coilSet c).role = .follow ∧
        ∀ e, (p.coilSet e).role = .lead → p.coilRoom e ≠ p.coilRoom c) := by
  unfold Part.hasPlace; decide +kernel

/-- Hunting; a length wanted, 3 and 250 in range, 2 and 251 out of it; a byte short of the end; the last byte of a
good frame and of a bad one. -/
theorem meets_LineEventsAndCharacters :
    (runPart.link .plant).rx = .hunting ∧ (3 ≤ (3#8).toNat ∧ (250#8).toNat ≤ 250) ∧
    ([0x03, 1, 0x25, 7] : List Byte).length - 1 + 2 < 3 + 3 ∧
    ((assemblingPart.link .plant).rx = .assembling [3, 1, 0x25, 7, 0xA1] ∧
      3 + 3 ≤ ([1, 0x25, 7, 0xA1] : List Byte).length + 2 ∧
      frameRequest .plant ([3, 1, 0x25, 7, 0xA1] ++ [0xD8]) = some (.readStatus .plant 7) ∧
      frameRequest .plant ([3, 1, 0x25, 7, 0xA1] ++ [0xD9]) = none) := by decide +kernel

/-- A queue with one place left and a full one, at an owed close order. -/
theorem meets_LineEventsAndCharacters_notices :
    ∀ n ∈ [31, 32], let p := owedPart.updLink .dock fun k => { k with notices := List.replicate n (.coolResume 0) }
      p.running = true ∧ (p.door 3).owed = some .defrost ∧ (p.door 3).lane = none ∧
      (p.link .dock).notices.length = n := by decide

/-- The message kinds at the ends of the three controllers' requests; SETUP and RUN; settings that SETUP alone takes,
and that one link alone may set. -/
theorem meets_the_permissions :
    [0x00, 0x01, 0x06, 0x07, 0x0E, 0x0F, 0x14, 0x15].map runtimeLink =
      [none, some .plant, some .plant, some .dock, some .dock, some .floor, some .floor, none] ∧
    ((Instr.temperatureSample .dock 1 0 0 0).onWire.map fun x => (x.1, x.2.1)) = some (.dock, 0x01) ∧
    ((Instr.dropped .plant 1 4 ⟨0, 0⟩).onWire.map fun x => (x.1, x.2.1)) = some (.plant, 0x14) ∧
    Part.reset.running = false ∧ takes rich .dock ∧
    (∃ x ∈ ([⟨2, 0⟩] : List Item), x.num = 1#8 ∨ x.num = 2#8) ∧
    (∀ x ∈ ([⟨3, 30⟩] : List Item), x.num ≠ 1#8 ∧ x.num ≠ 2#8) ∧
    (∃ x ∈ ([⟨10, 2⟩, ⟨3, 0⟩] : List Item), (x.num = 10#8 ∧ Link.dock ≠ .dock) ∨ (x.num = 11#8 ∧ Link.dock ≠ .floor) ∨
      (1 ≤ x.num.toNat ∧ (x.num.toNat ≤ 9 ∨ x.num = 12#8) ∧ Link.dock ≠ .plant)) ∧
    (∀ k, kind? 4 = some k → Link.dock ≠ (rich.route k).ack) ∧ kind? 0 = none := by
  refine ⟨by decide, by decide, by decide, by decide, by decide, by decide, by decide, by decide, ?_, by decide⟩
  rintro k h
  obtain rfl : Kind.roomOverTemp = k := Option.some.inj h
  decide

/-- Each setting request of RUN from a link that may send it. -/
theorem meets_the_permissions_of_settings :
    takes rich .plant ∧ takes rich .dock ∧ takes rich .floor ∧
    (∀ y ∈ [(Link.plant, 5#8), (.dock, 10#8), (.floor, 11#8)], (y.2 = 10#8 → y.1 = .dock) ∧
      (y.2 = 11#8 → y.1 = .floor) ∧ (1 ≤ y.2.toNat → y.2.toNat ≤ 9 ∨ y.2 = 12#8 → y.1 = .plant) ∧
      (Instr.setRoom y.1 1 2 [⟨y.2, 0⟩]).wellFormed = true) ∧
    (∀ i ∈ [Instr.setDoor .dock 1 3 [⟨1, 1⟩], .setProfile .dock 1 3 30 (List.replicate 8 0),
        .setCoil .plant 1 5 [⟨3, 30⟩],
        .setPlant .plant 1 [⟨4, 0⟩], .setFloor .floor 1 [⟨4, 2⟩], .setTrucks .floor 1 2, .setRoute .dock 1 3 [⟨1, 1⟩]],
      i.wellFormed = true) ∧
    kind? 3 = some .doorForced ∧ Link.dock = (rich.route .doorForced).ack := by decide

theorem meets_the_request_statements :
    (Instr.setRoom .plant 1 2 (someItems 12)).wellFormed = true ∧
    ((Instr.setRoom .plant 1 2 (someItems 12)).onWire.map fun x => (x.1, x.2.1, x.2.2.2.length)) =
      some (.plant, 0x15, 61) ∧
    (rich.link .plant).rx = .hunting := by decide

theorem meets_ModeAndLocksAreKept :
    Instr.secondEvent ≠ .pinReset ∧ rich.running = true ∧ (rich.setLock .room).locked .room = true ∧
    ∃ t, exec .secondEvent (stateOf (rich.setLock .room)) = .next t := ⟨by decide, by decide, by decide, _, rfl⟩

/-- Commands that leave a door, a room and a coil in another state, and a flag that is set. -/
theorem meets_ModeAndLocksAreKept_changes :
    ((after rich (.openCancel .dock 1 6)).door 6).state ≠ (rich.door 6).state ∧
    ((after stalePart (.roomSensorStale 1)).room 1).stale ≠ (stalePart.room 1).stale ∧
    ((after rich (.coilService .plant 1 5 1)).coil 5).phase ≠ (rich.coil 5).phase ∧
    ((rich.markDoor 3).change .floor).doors.getLsbD 3 = true := by decide +kernel

/-- A step runs from the rich part, which every invariant holds of. -/
theorem meets_a_step : ∃ t, step ⟨rich, [.secondEvent]⟩ = .next t := ⟨_, rfl⟩

theorem meets_the_ranges :
    rich.ClockInRange ∧ rich.FiltersInRange ∧ rich.AccountsInRange ∧ rich.QueuesInRange ∧ rich.AlarmsInRange ∧
    rich.TablesInRange := by
  unfold Part.ClockInRange Part.FiltersInRange Part.AccountsInRange Part.AlarmsInRange Part.TablesInRange
  refine ⟨by decide, by decide, by decide, ?_, by decide, by decide⟩
  intro l
  cases l <;> decide

theorem meets_the_matchings :
    rich.DueQueueMatches ∧ rich.DoorQueuesMatch ∧ rich.HoldsFollow ∧ rich.MovesMatch := by
  unfold Part.DueQueueMatches Part.DoorQueuesMatch Part.HoldsFollow Part.MovesMatch
  decide +kernel

theorem meets_the_counts :
    rich.OpenDoorsCount ∧ rich.OccupancyCounts ∧ rich.TrucksCount ∧ rich.GrantsWithinLimits ∧
    rich.HoldingsMatch ∧ rich.CapacityKept := by
  unfold Part.OpenDoorsCount Part.OccupancyCounts Part.TrucksCount Part.GrantsWithinLimits Part.HoldingsMatch
    Move.HoldsByState Part.CapacityKept
  decide +kernel

end Sys2Proof.Tests
end

section
/-! Rooms and the time base (01): a FAULT sample, RESET ROOM EXPOSURE and SET CLOCK. First what the taking of a
request comes to where its answer has a place, and how the checks of a runtime request come out; then each request
of this family, case by case; last the statements. -/

namespace Sys2Proof.Machine

/-! ### A taking with a place for its answer (R163), and the mode and link checks (R166, R167) -/

section Taking
variable {s : State} {l : Link} {act : Part → Part × Reply} {q : Part} {code : AnswerCode} {result : List Byte}

/-- A request that finds a place is answered with what its rule gives, and the part is what its rule leaves. -/
theorem State.onPart_take (place : s.part.hasPlace l) (msg ft : Byte) (given : act s.part = (q, ⟨code, result⟩)) :
    s.onPart (fun p => p.take l msg ft act) = s.answered q l msg ft code result := by
  have free : s.part.answersFull l = false := by simpa [Part.answersFull, Part.hasPlace] using place
  simp [State.onPart, Part.take, State.answered, free, given]

end Taking

section Checks
variable {p : Part} {l owner : Link} {go : Part × Reply}

/-- The checks of a runtime request in their order: the mode, then the link, then the request itself. -/
theorem guarded_runtime : guarded p (runtime p l owner) go =
    if p.running = false then refuse p .refusedMode else if l ≠ owner then refuse p .refusedLink else go := by
  by_cases setup : p.running = false
  · simp [guarded, runtime, firstFail, refuse, setup]
  · by_cases other : l ≠ owner <;> simp [guarded, runtime, firstFail, refuse, setup, other]

theorem guarded_runtime_of_setup (setup : p.running = false) :
    guarded p (runtime p l owner) go = refuse p .refusedMode := by
  rw [guarded_runtime, if_pos setup]

theorem guarded_runtime_of_link_ne (run : p.running = true) (other : l ≠ owner) :
    guarded p (runtime p l owner) go = refuse p .refusedLink := by
  rw [guarded_runtime, if_neg (by simp [run]), if_pos other]

theorem guarded_runtime_of_run (run : p.running = true) : guarded p (runtime p owner owner) go = go := by
  rw [guarded_runtime, if_neg (by simp [run]), if_neg (not_not_intro rfl)]

end Checks

/-! ### TEMPERATURE SAMPLE with the FAULT marker (R9), and READ ROOM after it (R24) -/

theorem exec_temperatureSample (l : Link) (ft room kind : Byte) (value : Word16) (s : State) :
    exec (.temperatureSample l ft room kind value) s =
      .next (s.onPart fun p => p.take l 0x01#8 ft (sampleRequest l room kind value)) := rfl

/-- The FAULT marker makes the value field count for nothing. -/
theorem reading?_fault (v : Word16) : reading? 1#8 v = some .fault := rfl

theorem sampleRequest_fault {p : Part} {b : Byte} {r : RoomId} (v : Word16) (run : p.running = true)
    (named : room? b = some r) :
    sampleRequest .plant b 1#8 v p = done (p.updRoom r fun x => { x with last := .fault }) := by
  rw [sampleRequest, guarded_runtime_of_run run, named, reading?_fault]
  rfl

/-- Byte 5 of a room record is the kind of the last sample. -/
theorem roomRecord_of_last_fault {p : Part} {r : RoomId} (h : (p.room r).last = .fault) :
    (roomRecord p r)[5]? = some 1#8 := by
  simp [roomRecord, h, u8, i16, bytes16, bitsByte]

theorem exec_readRoom (l : Link) (ft b : Byte) (s : State) :
    exec (.readRoom l ft b) s = .next (s.onPart fun p => p.take l 0x1F#8 ft (readRoomRequest b)) := rfl

theorem readRoomRequest_of_room {b : Byte} {r : RoomId} (named : room? b = some r) (p : Part) :
    readRoomRequest b p = (p, .give (roomRecord p r)) := by
  rw [readRoomRequest, named]

/-- READ ROOM of a room that is there, on a link with a place, answers with the record as it stands. -/
theorem exec_readRoom_of_room {l : Link} {s : State} {b : Byte} {r : RoomId} (ft : Byte)
    (place : s.part.hasPlace l) (named : room? b = some r) :
    exec (.readRoom l ft b) s = .next (s.answered s.part l 0x1F#8 ft .done (roomRecord s.part r)) := by
  rw [exec_readRoom, State.onPart_take place _ _ (readRoomRequest_of_room named _)]

/-! ### RESET ROOM EXPOSURE (R19) and the compare after it (R18) -/

theorem exec_resetRoomExposure (l : Link) (ft b : Byte) (s : State) :
    exec (.resetRoomExposure l ft b) s =
      .next (s.onPart fun p => p.take l 0x06#8 ft (resetExposureRequest l b)) := rfl

theorem resetExposureRequest_of_setup {p : Part} (l : Link) (b : Byte) (setup : p.running = false) :
    resetExposureRequest l b p = refuse p .refusedMode :=
  guarded_runtime_of_setup setup

theorem resetExposureRequest_of_link_ne {p : Part} {l : Link} (b : Byte) (run : p.running = true)
    (other : l ≠ .plant) : resetExposureRequest l b p = refuse p .refusedLink :=
  guarded_runtime_of_link_ne run other

theorem resetExposureRequest_of_room {p : Part} {b : Byte} {r : RoomId} (run : p.running = true)
    (named : room? b = some r) :
    resetExposureRequest .plant b p = done (p.updRoom r fun x => { x with exposure := 0, reached := false }) := by
  rw [resetExposureRequest, guarded_runtime_of_run run, named]

/-- A seeded room whose reached flag is clear and whose account is at its budget has the flag set and its event
raised. -/
theorem exposureCompare_of_budget_le {p : Part} {r : RoomId} (seeded : (p.room r).seeded = true)
    (clear : (p.room r).reached = false) (full : (p.roomSet r).exposureBudget ≤ (p.room r).exposure) :
    p.exposureCompare r = (p.updRoom r fun x => { x with reached := true }).raiseEdge .roomExposure r.val :=
  if_pos ⟨seeded, clear, full⟩

/-! ### SET CLOCK (R4) and what reads the clock (R92) -/

/-- The part with its clock at another day and second of day. -/
def Part.withClock (p : Part) (day second : Nat) : Part :=
  { p with time := { p.time with day := day, second := second } }

theorem exec_setClock (l : Link) (ft : Byte) (day : Word16) (second : Word32) (s : State) :
    exec (.setClock l ft day second) s =
      .next (s.onPart fun p => p.take l 0x29#8 ft (setClockRequest day second)) := rfl

theorem setClockRequest_of_le {second : Word32} (day : Word16) (p : Part) (out : 86400 ≤ second.toNat) :
    setClockRequest day second p = refuse p .badValue :=
  if_pos out

theorem setClockRequest_of_lt {second : Word32} (day : Word16) (p : Part) (inside : second.toNat < 86400) :
    setClockRequest day second p = done (p.withClock day.toNat second.toNat) :=
  if_neg (Nat.not_le.mpr inside)

/-- Eligibility for a slot reads the clock through the minute of day alone. -/
theorem slotEligible_withClock (p : Part) (day second : Nat) (c : CoilId) :
    (p.withClock day second).slotEligible c =
      (!p.store.plant.inWindow (second / 60) ||
        (p.store.plant.forceLimit != 0 && decide (p.store.plant.forceLimit ≤ (p.coil c).waitMinutes))) := rfl

/-- What a minute event of RUN does before the arbiter's pass: the coils' steps and the two conditions. -/
def Part.beforeMinutePass (p : Part) : Part :=
  ((allCoils.foldl Part.coilMinute p).examineDeferred).examineBlocked

theorem minuteWork_of_run {p : Part} (run : p.running = true) : p.minuteWork = p.beforeMinutePass.slotPass :=
  if_pos run

/-! ### The statements -/

/-- Settles O22: a FAULT sample updates the last-sample field and no other, so every listed field of the room reads
back as it was, and READ ROOM reads the record of that room. -/
theorem faultSampleIsRecorded : Obligations.FaultSampleIsRecorded := by
  intro s ft b r v run place named
  refine ⟨s.part.updRoom r fun x => { x with last := .fault }, ?taken, rfl, Part.updRoom_coils .., ?_⟩
  case taken => rw [exec_temperatureSample, State.onPart_take place _ _ (sampleRequest_fault v run named)]
  simp only [Part.room_updRoom, true_and]
  refine ⟨roomRecord_of_last_fault (by rw [Part.room_updRoom]), ?read⟩
  case read =>
    intro l t ft' left free
    rw [← left] at free ⊢
    exact exec_readRoom_of_room ft' free named

/-- Settles O23: the two refusals and the taking are the three ways the mode and link checks come out, and the
compare of R18 reads the cleared flag. -/
theorem roomExposureIsReset : Obligations.RoomExposureIsReset := by
  refine ⟨?setup, ?otherLink, ?taken, fun p r => exposureCompare_of_budget_le⟩
  case setup =>
    intro s l ft b setup place
    rw [exec_resetRoomExposure, State.onPart_take place _ _ (resetExposureRequest_of_setup l b setup)]
  case otherLink =>
    intro s l ft b run other place
    rw [exec_resetRoomExposure, State.onPart_take place _ _ (resetExposureRequest_of_link_ne b run other)]
  case taken =>
    intro s ft b r run place named
    rw [exec_resetRoomExposure, State.onPart_take place _ _ (resetExposureRequest_of_room run named)]

/-- Settles O42: the request splits at 86400; below it the new part differs from the old in day and second alone, and
eligibility and the minute event's pass are read off the changed clock. -/
theorem clockIsSet : Obligations.ClockIsSet := by
  intro s l ft day second place
  refine ⟨Nat.le_of_lt_succ day.isLt, fun out => ?refused, fun inside => ?taken⟩
  case refused => rw [exec_setClock, State.onPart_take place _ _ (setClockRequest_of_le day s.part out)]
  case taken =>
    refine ⟨s.part.withClock day.toNat second.toNat, ?_, rfl, rfl, rfl, rfl, slotEligible_withClock _ _ _,
      Part.beforeMinutePass, fun p => minuteWork_of_run⟩
    rw [exec_setClock, State.onPart_take place _ _ (setClockRequest_of_lt day s.part inside)]

end Sys2Proof.Machine
end
